-- ==== Sys2Proof/Word.lean ====
section
/-! DEFINITION. The plain widths of the spec (00_scope.md R7): bytes, 4-bit wire opcodes, SHA-1 words. -/

namespace Sys2Proof

/-- A byte, bit 7 most significant (R7). -/
abbrev Byte := BitVec 8

/-- A wire opcode: the 4-bit OPCODE field of a frame (R80). -/
abbrev Opcode := BitVec 4

/-- A SHA-1 word: 32 bits, unsigned, sums modulo 2^32 (R151). -/
abbrev Word := BitVec 32

end Sys2Proof
end

