-- ==== Sys2Proof/Config.lean ====
section
/-! DEFINITION. The OPEN parameters of the block and of the host (00_scope.md R6), and the free values.

The parameters are ARGUMENTS OF THE MODEL (R6): `State` carries one `Config`, no step changes it, and a statement over
all states therefore holds for every value of every parameter. The two constants without a body are the values the
spec leaves unspecified after a CAPACITY fault (R241, R31, 93_implementation_defined.md U2). -/

namespace Sys2Proof

/-- The OPEN parameters of R6. `none` is the spec's ∞. CMD_LATENCY is not here: no rule reads it (R271). -/
structure Config where
  /-- PARSER_CAPACITY (R112, U8): the longest raw frame FP can hold. -/
  parserCapacity : Option Nat
  /-- DATA_CAPACITY (R70, U9): the largest data operand of one command. -/
  dataCapacity : Option Nat
  /-- READ_CHUNK (R201, U11): the most bytes one transport read gives. -/
  readChunk : Nat
  /-- PROTOCOL_ERROR_CODE (R224, U12). -/
  protocolErrorCode : BitVec 16
deriving DecidableEq, Repr

/-- The limits R6, R112 and D31 set on the parameters: a finite PARSER_CAPACITY holds every header, and a read can
give at least one byte. -/
def Config.wf (c : Config) : Bool :=
  (match c.parserCapacity with
   | none => true
   | some n => decide (14 ≤ n)) && decide (1 ≤ c.readChunk)

/-- The defaults: both capacities ∞ (R6, D17), READ_CHUNK the source's example 1024 (DESIGN CHOICE), and
PROTOCOL_ERROR_CODE RFC 6455's 1002 (PRESUMED; R219, G6). Log entry 4. -/
def Config.default : Config :=
  { parserCapacity := none, dataCapacity := none, readChunk := 1024, protocolErrorCode := 1002 }

/-- FREE VALUE: what a CAPACITY fault leaves in `S.buf` (R241, U2), one for each draw. Log entry 7. -/
opaque Config.capacityBuffer : Nat → List Byte

/-- FREE VALUE: what STAGE reads where R30 and R31 give it no value (R31, U2), one for each draw. Log entry 7. -/
opaque Config.unspecifiedStage : Nat → BitVec 3

end Sys2Proof
end

