-- ==== Sys2Proof/Syntax.lean ====
section
/-! DEFINITION. The instructions: one constructor for each row of spec/opcode_table.json.

The nine commands carry what their command word carries (30_encoding.md R71, R74); the data operand is no part of the
word and stands in `State.operand`. The sixteen wire opcodes carry the emitted frame's other fields (10_state.md R27):
FIN, the mask key if there was one, and the unmasked payload. RSV is not carried (R27, R81). -/

namespace Sys2Proof

/-- The Frame record FP emits (R27). -/
structure Frame where
  fin : Bool
  opcode : Opcode
  masked : Bool
  maskKey : Option (List Byte)
  payload : List Byte
deriving DecidableEq, Repr

/-- The instructions. A wire constructor stands for the host's handling of one emitted frame with that opcode (R80). -/
inductive Instr where
  /-- FP_PUSH, format CB: the byte is IMM (R101). -/
  | fpPush (byte : Byte)
  /-- FP_APPEND, format CD (R102). -/
  | fpAppend
  /-- MX_XOR, format CD (R131). -/
  | mxXor
  /-- HH_ACCEPT, format CD (R160). -/
  | hhAccept
  /-- HH_SHA1, format CD (R161). -/
  | hhSha1
  /-- HH_B64, format CD (R162). -/
  | hhB64
  /-- FE_HEADER, format CO: the opcode is IMM[3:0] (R181). -/
  | feHeader (op : Opcode)
  /-- FE_FRAME, format CO (R182). -/
  | feFrame (op : Opcode)
  /-- RD_STATUS, format CN (R190). -/
  | rdStatus
  /-- Opcode 0x0, CONT (R210). -/
  | wireCont (fin : Bool) (key : Option (List Byte)) (payload : List Byte)
  /-- Opcode 0x1, TEXT (R211). -/
  | wireText (fin : Bool) (key : Option (List Byte)) (payload : List Byte)
  /-- Opcode 0x2, BINARY (R212). -/
  | wireBinary (fin : Bool) (key : Option (List Byte)) (payload : List Byte)
  /-- Opcode 0x3, reserved, data range (R213). -/
  | wireData3 (fin : Bool) (key : Option (List Byte)) (payload : List Byte)
  /-- Opcode 0x4, reserved, data range (R213). -/
  | wireData4 (fin : Bool) (key : Option (List Byte)) (payload : List Byte)
  /-- Opcode 0x5, reserved, data range (R213). -/
  | wireData5 (fin : Bool) (key : Option (List Byte)) (payload : List Byte)
  /-- Opcode 0x6, reserved, data range (R213). -/
  | wireData6 (fin : Bool) (key : Option (List Byte)) (payload : List Byte)
  /-- Opcode 0x7, reserved, data range (R213). -/
  | wireData7 (fin : Bool) (key : Option (List Byte)) (payload : List Byte)
  /-- Opcode 0x8, CLOSE (R205). -/
  | wireClose (fin : Bool) (key : Option (List Byte)) (payload : List Byte)
  /-- Opcode 0x9, PING (R206). -/
  | wirePing (fin : Bool) (key : Option (List Byte)) (payload : List Byte)
  /-- Opcode 0xA, PONG (R207). -/
  | wirePong (fin : Bool) (key : Option (List Byte)) (payload : List Byte)
  /-- Opcode 0xB, reserved, control range (R207). -/
  | wireCtrlB (fin : Bool) (key : Option (List Byte)) (payload : List Byte)
  /-- Opcode 0xC, reserved, control range (R207). -/
  | wireCtrlC (fin : Bool) (key : Option (List Byte)) (payload : List Byte)
  /-- Opcode 0xD, reserved, control range (R207). -/
  | wireCtrlD (fin : Bool) (key : Option (List Byte)) (payload : List Byte)
  /-- Opcode 0xE, reserved, control range (R207). -/
  | wireCtrlE (fin : Bool) (key : Option (List Byte)) (payload : List Byte)
  /-- Opcode 0xF, reserved, control range (R207). -/
  | wireCtrlF (fin : Bool) (key : Option (List Byte)) (payload : List Byte)
deriving DecidableEq, Repr

/-- The Frame record a wire constructor stands for (R27, R80); a command stands for none. `masked` holds exactly when
a key is present (R27's invariant). -/
def Instr.toFrame : Instr → Option Frame
  | .fpPush _ => none
  | .fpAppend => none
  | .mxXor => none
  | .hhAccept => none
  | .hhSha1 => none
  | .hhB64 => none
  | .feHeader _ => none
  | .feFrame _ => none
  | .rdStatus => none
  | .wireCont f k p => some ⟨f, 0x0, k.isSome, k, p⟩
  | .wireText f k p => some ⟨f, 0x1, k.isSome, k, p⟩
  | .wireBinary f k p => some ⟨f, 0x2, k.isSome, k, p⟩
  | .wireData3 f k p => some ⟨f, 0x3, k.isSome, k, p⟩
  | .wireData4 f k p => some ⟨f, 0x4, k.isSome, k, p⟩
  | .wireData5 f k p => some ⟨f, 0x5, k.isSome, k, p⟩
  | .wireData6 f k p => some ⟨f, 0x6, k.isSome, k, p⟩
  | .wireData7 f k p => some ⟨f, 0x7, k.isSome, k, p⟩
  | .wireClose f k p => some ⟨f, 0x8, k.isSome, k, p⟩
  | .wirePing f k p => some ⟨f, 0x9, k.isSome, k, p⟩
  | .wirePong f k p => some ⟨f, 0xA, k.isSome, k, p⟩
  | .wireCtrlB f k p => some ⟨f, 0xB, k.isSome, k, p⟩
  | .wireCtrlC f k p => some ⟨f, 0xC, k.isSome, k, p⟩
  | .wireCtrlD f k p => some ⟨f, 0xD, k.isSome, k, p⟩
  | .wireCtrlE f k p => some ⟨f, 0xE, k.isSome, k, p⟩
  | .wireCtrlF f k p => some ⟨f, 0xF, k.isSome, k, p⟩

end Sys2Proof
end

