-- ==== Sys2Proof/WellFormed.lean ====
section
/-! DEFINITION. Which instructions are well formed: the limits the spec sets beside the widths of the types. A command
word's fields have their widths in the types, so every command is well formed. -/

namespace Sys2Proof

/-- A mask key is 4 bytes (R6 MASK_KEY_BYTES, R27). -/
def keyFits : Option (List Byte) → Bool
  | none => true
  | some k => k.length == 4

/-- A payload length is at most 2^64 − 1 (R6 MAX_PAYLOAD_LEN, R26). -/
def payloadFits (p : List Byte) : Bool := decide (p.length < 2 ^ 64)

/-- A frame record as FP can emit it (R27): the two limits, and `masked` says whether a key is present. -/
def Frame.wf (f : Frame) : Bool :=
  keyFits f.maskKey && payloadFits f.payload && (f.masked == f.maskKey.isSome)

/-- An instruction is well formed when the frame it stands for, if it stands for one, is. -/
def Instr.wf (i : Instr) : Bool :=
  match i.toFrame with
  | none => true
  | some f => f.wf

end Sys2Proof
end

