-- ==== Sys2Proof/Decode.lean ====
section
/-! DEFINITION. Decoding and encoding, both of them: the 16-bit command word (30_encoding.md R74) and the wire format
of one frame (R75 to R79, with the header functions of 10_state.md R23 to R28). Beside them the byte-order helpers
(R9) and the mask function (41_masking.md R130) that the wire format uses. -/

namespace Sys2Proof

/-! ### Byte order (R9) -/

/-- `BE(s)`: the natural number of a byte sequence, `s[0]` most significant (R9). -/
def bigEndian (s : List Byte) : Nat := s.foldl (fun acc b => acc * 256 + b.toNat) 0

/-- `be_n(v)`: the `n` bytes of `v mod 256^n`, most significant first (R9). -/
def toBigEndian : Nat → Nat → List Byte
  | 0, _ => []
  | n + 1, v => BitVec.ofNat 8 (v / 256 ^ n) :: toBigEndian n v

/-! ### The mask function (R130) -/

/-- The mask function from payload index `i` on: byte `i` is XORed with key byte `i mod 4`. -/
def xorMaskFrom (key : List Byte) : Nat → List Byte → List Byte
  | _, [] => []
  | i, p :: ps => (p ^^^ key.getD (i % 4) 0) :: xorMaskFrom key (i + 1) ps

/-- `xorMask(P, K)` (R130): masking and unmasking alike. -/
def xorMask (payload key : List Byte) : List Byte := xorMaskFrom key 0 payload

/-! ### Header fields of a buffer (R23 to R28) -/

/-- Byte `i` of a buffer. Every use below is gated, as R28 says, on the byte being there. -/
def byteAt (B : List Byte) (i : Nat) : Byte := B.getD i 0

/-- `s[a..a+n)` (R8). -/
def slice (B : List Byte) (a n : Nat) : List Byte := (B.drop a).take n

/-- FIN: bit 7 of byte 0 (R23). -/
def finOf (B : List Byte) : Bool := (byteAt B 0).getLsbD 7

/-- OPCODE: bits 3:0 of byte 0 (R23). -/
def opcodeOf (B : List Byte) : Opcode := (byteAt B 0).extractLsb' 0 4

/-- MASK: bit 7 of byte 1 (R23). -/
def maskOf (B : List Byte) : Bool := (byteAt B 1).getLsbD 7

/-- The provisional length: bits 6:0 of byte 1 (R23). -/
def len7Of (B : List Byte) : Nat := ((byteAt B 1).extractLsb' 0 7).toNat

/-- The extended-length byte count (R24). -/
def extN (B : List Byte) : Nat :=
  if len7Of B = 126 then 2 else if len7Of B = 127 then 8 else 0

/-- Index of the first mask-key byte (R25). -/
def keyOff (B : List Byte) : Nat := 2 + extN B

/-- Header length (R25). -/
def hdrLen (B : List Byte) : Nat := keyOff B + (if maskOf B then 4 else 0)

/-- The final payload length (R26). -/
def payloadLen (B : List Byte) : Nat :=
  if extN B = 0 then len7Of B else bigEndian (slice B 2 (extN B))

/-- The mask key (R26), meaningful where MASK is set. -/
def maskKeyOf (B : List Byte) : List Byte := slice B (keyOff B) 4

/-- Total frame length (R26): a Nat, which may pass 2^64 − 1. -/
def total (B : List Byte) : Nat := hdrLen B + payloadLen B

/-- A buffer is complete (R28). -/
def complete (B : List Byte) : Bool :=
  decide (2 ≤ B.length) && decide (keyOff B ≤ B.length) && decide (B.length = total B)

/-- The Frame record of a complete buffer (R27): the payload unmasked with the key from index 0 (R110). -/
def frameOf (B : List Byte) : Frame :=
  { fin := finOf B
    opcode := opcodeOf B
    masked := maskOf B
    maskKey := if maskOf B then some (maskKeyOf B) else none
    payload :=
      if maskOf B then xorMask (slice B (hdrLen B) (payloadLen B)) (maskKeyOf B)
      else slice B (hdrLen B) (payloadLen B) }

/-! ### Decoding -/

/-- Why a decoder refuses. -/
inductive DecodeError where
  /-- A reserved CMD value (R73, R82). -/
  | reservedCommand
  /-- An assigned CMD with a reserved IMM bit set (R82). -/
  | reservedImmediate
  /-- The bytes end inside a frame (R79). No wire encoding is illegal (R81). -/
  | incompleteFrame
  /-- The bytes go on after the frame's end (R79). -/
  | bytesAfterFrame
deriving DecidableEq, Repr

/-- The wire instruction of an emitted frame, by its opcode (R80). -/
def instrOfFrame (f : Frame) : Instr :=
  match f.opcode.toNat with
  | 0x0 => .wireCont f.fin f.maskKey f.payload
  | 0x1 => .wireText f.fin f.maskKey f.payload
  | 0x2 => .wireBinary f.fin f.maskKey f.payload
  | 0x3 => .wireData3 f.fin f.maskKey f.payload
  | 0x4 => .wireData4 f.fin f.maskKey f.payload
  | 0x5 => .wireData5 f.fin f.maskKey f.payload
  | 0x6 => .wireData6 f.fin f.maskKey f.payload
  | 0x7 => .wireData7 f.fin f.maskKey f.payload
  | 0x8 => .wireClose f.fin f.maskKey f.payload
  | 0x9 => .wirePing f.fin f.maskKey f.payload
  | 0xA => .wirePong f.fin f.maskKey f.payload
  | 0xB => .wireCtrlB f.fin f.maskKey f.payload
  | 0xC => .wireCtrlC f.fin f.maskKey f.payload
  | 0xD => .wireCtrlD f.fin f.maskKey f.payload
  | 0xE => .wireCtrlE f.fin f.maskKey f.payload
  | _ => .wireCtrlF f.fin f.maskKey f.payload

/-- A command whose whole IMM is reserved (formats CD and CN, R71). -/
def withZeroImm (imm : Byte) (i : Instr) : Except DecodeError Instr :=
  if imm = 0 then .ok i else .error .reservedImmediate

/-- A command whose IMM[7:4] is reserved and IMM[3:0] is a wire opcode (format CO, R71). -/
def withOpcodeImm (imm : Byte) (mk : Opcode → Instr) : Except DecodeError Instr :=
  if imm.extractLsb' 4 4 = 0#4 then .ok (mk (imm.extractLsb' 0 4)) else .error .reservedImmediate

/-- Command decode (R74): CMD is CW[15:8], IMM is CW[7:0]. -/
def decodeWord (cw : BitVec 16) : Except DecodeError Instr :=
  let cmd : Byte := cw.extractLsb' 8 8
  let imm : Byte := cw.extractLsb' 0 8
  if cmd = 0x02 then .ok (.fpPush imm)
  else if cmd = 0x03 then withZeroImm imm .fpAppend
  else if cmd = 0x10 then withZeroImm imm .mxXor
  else if cmd = 0x20 then withZeroImm imm .hhAccept
  else if cmd = 0x21 then withZeroImm imm .hhSha1
  else if cmd = 0x22 then withZeroImm imm .hhB64
  else if cmd = 0x30 then withOpcodeImm imm .feHeader
  else if cmd = 0x31 then withOpcodeImm imm .feFrame
  else if cmd = 0x40 then withZeroImm imm .rdStatus
  else .error .reservedCommand

/-- Decoding of exactly one frame's bytes (R75 to R79). -/
def decodeFrame (bytes : List Byte) : Except DecodeError Instr :=
  if complete bytes then .ok (instrOfFrame (frameOf bytes))
  else if bytes.length < 2 ∨ bytes.length < keyOff bytes ∨ bytes.length < total bytes then
    .error .incompleteFrame
  else .error .bytesAfterFrame

/-- What an instruction is encoded in: a command word, or the bytes of a frame. -/
inductive Encoded where
  | word (cw : BitVec 16)
  | frame (bytes : List Byte)
deriving DecidableEq, Repr

/-- The decoder, total on any command word and any bytes. -/
def decode : Encoded → Except DecodeError Instr
  | .word cw => decodeWord cw
  | .frame bytes => decodeFrame bytes

/-! ### Encoding -/

/-- The three length forms (R77): H2, H4 and H10, each with or without a key. -/
inductive LenForm where
  | h2
  | h4
  | h10
deriving DecidableEq, Repr

/-- The lengths a form can carry (R77, column L range). -/
def LenForm.holds : LenForm → Nat → Bool
  | .h2, L => decide (L < 126)
  | .h4, L => decide (L < 2 ^ 16)
  | .h10, L => decide (L < 2 ^ 64)

/-- The shortest form that holds `L` (R180, R185). -/
def shortestForm (L : Nat) : LenForm :=
  if L < 126 then .h2 else if L ≤ 0xFFFF then .h4 else .h10

/-- Byte 0: FIN, RSV1 to RSV3, OPCODE (R76). -/
def headerByte0 (fin : Bool) (rsv : BitVec 3) (op : Opcode) : Byte := BitVec.ofBool fin ++ rsv ++ op

/-- Byte 1: MASK, PAYLOAD_LEN (R76). -/
def headerByte1 (mask : Bool) (len7 : BitVec 7) : Byte := BitVec.ofBool mask ++ len7

/-- Byte 1 and the extended length, in a given form (R77). -/
def lengthBytes (mask : Bool) : LenForm → Nat → List Byte
  | .h2, L => [headerByte1 mask (BitVec.ofNat 7 L)]
  | .h4, L => headerByte1 mask 126 :: toBigEndian 2 L
  | .h10, L => headerByte1 mask 127 :: toBigEndian 8 L

/-- A frame's bytes with given RSV bits, in a given length form (R75 to R77). -/
def encodeFrame (rsv : BitVec 3) (form : LenForm) (f : Frame) : List Byte :=
  headerByte0 f.fin rsv f.opcode :: lengthBytes f.maskKey.isSome form f.payload.length ++
    (match f.maskKey with
     | some k => k ++ xorMask f.payload k
     | none => f.payload)

/-- The encoder. A frame is written with RSV 000 and in the shortest form; `encodeFrame` writes the others. -/
def encode (i : Instr) : Encoded :=
  match i with
  | .fpPush b => .word ((0x02 : Byte) ++ b)
  | .fpAppend => .word 0x0300
  | .mxXor => .word 0x1000
  | .hhAccept => .word 0x2000
  | .hhSha1 => .word 0x2100
  | .hhB64 => .word 0x2200
  | .feHeader op => .word ((0x300 : BitVec 12) ++ op)
  | .feFrame op => .word ((0x310 : BitVec 12) ++ op)
  | .rdStatus => .word 0x4000
  | .wireCont .. | .wireText .. | .wireBinary .. | .wireData3 .. | .wireData4 .. | .wireData5 .. | .wireData6 ..
  | .wireData7 .. | .wireClose .. | .wirePing .. | .wirePong .. | .wireCtrlB .. | .wireCtrlC .. | .wireCtrlD ..
  | .wireCtrlE .. | .wireCtrlF .. =>
    match i.toFrame with
    | some f => .frame (encodeFrame 0 (shortestForm f.payload.length) f)
    | none => .frame []

/-! ### The opcode table (opcode_table.json) -/

/-- One row of the table: its mask and its match. -/
structure TableRow where
  mask : Nat
  value : Nat
deriving DecidableEq, Repr

/-- The mask and match of the row an instruction stands for, as the table gives them. Command rows are over the
command word, wire rows over byte 0 of the frame. -/
def tableRow : Instr → TableRow
  | .fpPush _ => ⟨0xFF00, 0x0200⟩
  | .fpAppend => ⟨0xFFFF, 0x0300⟩
  | .mxXor => ⟨0xFFFF, 0x1000⟩
  | .hhAccept => ⟨0xFFFF, 0x2000⟩
  | .hhSha1 => ⟨0xFFFF, 0x2100⟩
  | .hhB64 => ⟨0xFFFF, 0x2200⟩
  | .feHeader _ => ⟨0xFFF0, 0x3000⟩
  | .feFrame _ => ⟨0xFFF0, 0x3100⟩
  | .rdStatus => ⟨0xFFFF, 0x4000⟩
  | .wireCont .. => ⟨0x0F, 0x00⟩
  | .wireText .. => ⟨0x0F, 0x01⟩
  | .wireBinary .. => ⟨0x0F, 0x02⟩
  | .wireData3 .. => ⟨0x0F, 0x03⟩
  | .wireData4 .. => ⟨0x0F, 0x04⟩
  | .wireData5 .. => ⟨0x0F, 0x05⟩
  | .wireData6 .. => ⟨0x0F, 0x06⟩
  | .wireData7 .. => ⟨0x0F, 0x07⟩
  | .wireClose .. => ⟨0x0F, 0x08⟩
  | .wirePing .. => ⟨0x0F, 0x09⟩
  | .wirePong .. => ⟨0x0F, 0x0A⟩
  | .wireCtrlB .. => ⟨0x0F, 0x0B⟩
  | .wireCtrlC .. => ⟨0x0F, 0x0C⟩
  | .wireCtrlD .. => ⟨0x0F, 0x0D⟩
  | .wireCtrlE .. => ⟨0x0F, 0x0E⟩
  | .wireCtrlF .. => ⟨0x0F, 0x0F⟩

/-- The nine command rows of the table, in its order. -/
def commandRows : List TableRow :=
  [⟨0xFF00, 0x0200⟩, ⟨0xFFFF, 0x0300⟩, ⟨0xFFFF, 0x1000⟩, ⟨0xFFFF, 0x2000⟩, ⟨0xFFFF, 0x2100⟩, ⟨0xFFFF, 0x2200⟩,
   ⟨0xFFF0, 0x3000⟩, ⟨0xFFF0, 0x3100⟩, ⟨0xFFFF, 0x4000⟩]

/-- The number the table's mask and match are about: the command word, or byte 0 of the frame. -/
def tableNumber : Encoded → Nat
  | .word cw => cw.toNat
  | .frame bytes => (byteAt bytes 0).toNat

/-! ### Words as the opcode table numbers them -/

/-- The decoder on a table row's bits: 16 bits are a command word; 8 bits are byte 0 of a frame, whose other byte is
zero (MASK 0, PAYLOAD_LEN 0: the operand words of zeros), so the frame is whole. -/
def decodeTableWord (nbits w : Nat) : Option Instr :=
  if nbits = 8 then (decode (.frame [BitVec.ofNat 8 w, 0])).toOption
  else if nbits = 16 then (decode (.word (BitVec.ofNat 16 w))).toOption
  else none

end Sys2Proof
end

