-- ==== Sys2Proof/Machine/State.lean ====
section
/-! DEFINITION. The state of the block (10_state.md R22), of the command interface (30_encoding.md R70 to R72), of the
host session and its reassembler (47_host_consumer.md R200, R209) and of the transport oracle (R228), as plain data;
the fault causes (60_exceptions.md R240); why the machine can stop; and the state after reset. -/

namespace Sys2Proof.Machine

/-- The block's three recorded fault causes (R240). They are the block's own sticky faults, which are next states; they
are not reasons for the machine to stop. -/
inductive Cause where
  | illegalCommand
  | operandLength
  | capacity
deriving DecidableEq, Repr

/-- The block state S: exactly three fields (R22). -/
structure Block where
  /-- The raw, still masked bytes of the frame now being received. -/
  buf : List Byte
  /-- The sticky fault flag. -/
  fault : Bool
  /-- The cause code of the fault that set it. -/
  cause : BitVec 8
deriving DecidableEq, Repr

/-- The response record of a command (R72). -/
structure Response where
  status : BitVec 8
  consumed : Nat
  frame : Option Frame
  out : List Byte
deriving DecidableEq, Repr

/-- A message delivered to the application (R218). Text carries the UTF-8 bytes of its string. -/
inductive Message where
  | text (utf8 : List Byte)
  | binary (bytes : List Byte)
  | close (code : Option (BitVec 16))
deriving DecidableEq, Repr

/-- The host's error kinds (R219). None is a fault of the block (R247). -/
inductive HostError where
  | ioError
  | unexpectedOpcode
  | invalidTextPayload
  | unsupportedOpcode
deriving DecidableEq, Repr

/-- What a finished host call returned: `Ok` of a read with its messages, `Ok` of another call, or `Err`. -/
inductive CallResult where
  | messages (ms : List Message)
  | done
  | error (e : HostError)
deriving DecidableEq, Repr

/-- The reassembler's PartialMessageState (R209). -/
structure Assembler where
  acc : List Byte
  startOp : Option Opcode
deriving DecidableEq, Repr

/-- The upgrade request as the HTTP collaborator presents it (R226): header names with their trimmed values. -/
structure HttpRequest where
  version : List Byte
  headers : List (List Byte × List Byte)
deriving DecidableEq, Repr

/-- A response of the HTTP collaborator, ready to send (R226). It stays a record: its serialisation is the
collaborator's (N8). -/
structure HttpResponse where
  version : List Byte
  reason : List Byte
  code : Nat
  headers : List (List Byte × List Byte)
  /-- None for `.build()`, "no body". -/
  body : Option (List Byte)
deriving DecidableEq, Repr

/-- The host's moves: a raw command, the reset input, and the calls of 47_host_consumer.md and R84. -/
inductive Move where
  /-- Issue a command word with its data operand (R70). -/
  | command (cw : BitVec 16) (data : List Byte)
  /-- Assert the reset input (R260). -/
  | reset
  /-- `read()` (R201). -/
  | read
  /-- FEED: the loop of R201 over given bytes (R84). -/
  | feed (bytes : List Byte)
  /-- `send(opcode, payload)` (R220); SEND_PONG is `send 0xA` (R84). -/
  | send (op : Opcode) (payload : List Byte)
  /-- `send_text(s)`, given the UTF-8 bytes of s (R222). -/
  | sendText (utf8 : List Byte)
  /-- `send_bytes(b)` (R222). -/
  | sendBytes (bytes : List Byte)
  /-- `close(optional code)` (R222). -/
  | close (code : Option (BitVec 16))
  /-- The upgrade handshake (R225), with the collaborator's answer to `send(transport)` (R226). -/
  | handshake (request : HttpRequest) (sendOk : Bool)
deriving DecidableEq, Repr

/-- What falls before a step, whatever call the host is in (R227; log entry 3). -/
inductive Interjection where
  /-- Nothing: the reset input is not asserted, and STATUS is not read. -/
  | quiet
  /-- The reset input is asserted (R260): "reset at any time". -/
  | reset
  /-- The host issues RD_STATUS: "read it at any time". -/
  | readStatus
deriving DecidableEq, Repr

/-- One answer of the transport to a read (R228). `bytes []` is end of stream (R202). -/
inductive RxAnswer where
  | wouldBlock
  | failure
  | bytes (bs : List Byte)
deriving DecidableEq, Repr

/-- One answer of the transport to a write (R228): it takes `1 + extra` bytes or all of them, whichever is fewer, or
fails. A write of 0 bytes is no answer (D34). -/
inductive TxAnswer where
  | accept (extra : Nat)
  | failure
deriving DecidableEq, Repr

/-- The connection session (R200, R201, R223 to R226). -/
structure Session where
  /-- The handshake is done: framed mode (R225). -/
  framed : Bool
  /-- The `closed` flag (R200, R223). -/
  closed : Bool
  /-- The reassembler (R209). -/
  asm : Assembler
  /-- A read cycle is in progress (R201). -/
  reading : Bool
  /-- The unread rest of the chunk (R201). -/
  rem : List Byte
  /-- The messages gathered in this cycle (R201). -/
  msgs : List Message
  /-- A frame FP has emitted that the host has not yet dispatched (R204). -/
  pending : Option Frame
  /-- A protocol error has been returned, and the close frame is owed (R224). -/
  mustClose : Bool
  /-- What the last finished host call returned; none before the first. -/
  ret : Option CallResult
  /-- The 101 response handed to the collaborator (R225); none before the handshake. -/
  http : Option HttpResponse
deriving DecidableEq, Repr

/-- The transport oracle (R228) and what has been written to it. -/
structure Transport where
  rx : List RxAnswer
  txPlan : List TxAnswer
  tx : List Byte
  /-- The connection has been dropped after an IoError (R219, R226). -/
  down : Bool
deriving DecidableEq, Repr

/-- The whole state. -/
structure State where
  /-- The parameters of R6, fixed when the block is built (R263). -/
  cfg : Config
  /-- The block. -/
  blk : Block
  /-- The data operand of the command being performed (R70, R10 `data`). -/
  operand : List Byte
  /-- The response of the last command (R72); none before the first. -/
  resp : Option Response
  /-- The MODEL'S field: the index of the next free value. -/
  draws : Nat
  /-- The host session. -/
  ses : Session
  /-- The transport. -/
  net : Transport
  /-- The host's moves still to be made (R21, R83). -/
  program : List Move
  /-- What falls before the coming steps, one entry each (R260, R227); nothing after the list. -/
  between : List Interjection
deriving DecidableEq, Repr

/-- Why the machine stops with a fault. -/
inductive Fault where
  /-- Raised by the host's handshake when the request has no Sec-WebSocket-Key: "absence is a fatal precondition
  (caller must not proceed)" (R225). Safe: nothing is claimed of the machine after it. -/
  | missingWebSocketKey
deriving DecidableEq, Repr

/-- Why the machine refuses a move. -/
inductive Refusal where
  /-- Raised by an arm of `exec` whose instruction has no meaning yet. Safe: nothing is claimed. -/
  | notModelled (mnemonic : String)
  /-- Raised by read, FEED, send and close on a Closed session: "outside the source, and is refused" (R223). Safe. -/
  | sessionClosed
  /-- Raised by read, FEED, send and close before the handshake: "outside the source's session" (R262). Safe. -/
  | sessionNotOpen
  /-- Raised by a second handshake: the host must "do the handshake once" (R227), and "There is no reopening" (R223).
  Safe. -/
  | handshakeRepeated
  /-- Raised by send_text on bytes that are the UTF-8 of no string: the call takes a string (R222, R218). Safe. -/
  | notUtf8
deriving DecidableEq, Repr

/-- The block after reset (R33, R260). -/
def Block.reset : Block := { buf := [], fault := false, cause := 0x00 }

/-- The reassembler's initial and reset value (R209). -/
def Assembler.reset : Assembler := { acc := [], startOp := none }

/-- The session before the handshake. Log entry 5. -/
def Session.reset : Session :=
  { framed := false, closed := false, asm := Assembler.reset, reading := false, rem := [], msgs := [],
    pending := none, mustClose := false, ret := none, http := none }

/-- The transport before anything has been read or written. Log entry 6. -/
def Transport.reset : Transport := { rx := [], txPlan := [], tx := [], down := false }

/-- The machine right after reset: the block as R33 and R260 say, and the host as the log entries 1 to 7 name it. -/
def State.reset : State :=
  { cfg := Config.default, blk := Block.reset, operand := [], resp := none, draws := 0,
    ses := Session.reset, net := Transport.reset, program := [], between := [] }

end Sys2Proof.Machine
end

