-- ==== Sys2Proof/Machine/Flags.lean ====
section
/-! DEFINITION. What the block shows of itself: the parser stage (10_state.md R30) and the STATUS register (R31). WSFE
has no condition codes (R32); FAULT is its one flag. -/

namespace Sys2Proof.Machine

/-- The parser stage (R30). R30 gives none to a buffer that breaks R29. -/
def stage (B : List Byte) : Option (BitVec 3) :=
  if B.length = 0 then some 0
  else if B.length = 1 then some 1
  else if B.length < keyOff B then some 2
  else if B.length < hdrLen B then some 3
  else if B.length < total B then some 4
  else none

/-- The code of a recorded cause (R240). -/
def Cause.code : Cause → BitVec 8
  | .illegalCommand => 0x01
  | .operandLength => 0x02
  | .capacity => 0x03

/-- STAGE where the spec gives it a value: not after CAPACITY (R31), and not for a buffer outside R30. -/
def stageGiven (b : Block) : Option (BitVec 3) :=
  if b.fault ∧ b.cause = Cause.capacity.code then none else stage b.buf

/-- What STAGE reads: the value given, else a free value (R31, U2; log entry 7). -/
def stageRead (s : State) : BitVec 3 :=
  match stageGiven s.blk with
  | some v => v
  | none => Config.unspecifiedStage s.draws

/-- STATUS (R31): CAUSE in bits 15:8, 0000 in 7:4, STAGE in 3:1, FAULT in bit 0. -/
def statusWord (s : State) : BitVec 16 :=
  s.blk.cause ++ (0 : BitVec 4) ++ stageRead s ++ BitVec.ofBool s.blk.fault

end Sys2Proof.Machine
end

