-- ==== Sys2Proof/Machine/Operands.lean ====
section
/-! DEFINITION. The checks on a command's data operand: DATA_CAPACITY, and each command's own length check
(60_exceptions.md R240, row OPERAND_LENGTH; R243, checks 3 and 4), and the capacities of check 5. -/

namespace Sys2Proof.Machine

/-- A count passes a bound; none is ∞ (R6). -/
def exceeds (n : Nat) : Option Nat → Bool
  | none => false
  | some cap => decide (cap < n)

/-- HASH_MAX_BYTES: SHA-1's message limit (R6, R152). -/
def hashMaxBytes : Nat := 2 ^ 61 - 1

/-- R243 check 3: the data operand passes DATA_CAPACITY. -/
def operandTooLong (s : State) : Bool := exceeds s.operand.length s.cfg.dataCapacity

/-- FP_PUSH and RD_STATUS: data must be empty (R101, R190). -/
def operandNotEmpty (d : List Byte) : Bool := !d.isEmpty

/-- MX_XOR: at least the 4 key bytes (R131). -/
def operandLacksKey (d : List Byte) : Bool := decide (d.length < 4)

/-- FE_HEADER: exactly 8 bytes (R181). -/
def operandNotEight (d : List Byte) : Bool := d.length != 8

/-- FE_FRAME: at most 2^64 − 1 bytes (R182). -/
def operandNoPayload (d : List Byte) : Bool := decide (2 ^ 64 - 1 < d.length)

/-- The commands that check no length of their own: FP_APPEND, HH_ACCEPT, HH_SHA1, HH_B64. -/
def operandAny (_ : List Byte) : Bool := false

/-- One more byte would pass PARSER_CAPACITY (R101, R102). -/
def bufferFull (cap : Option Nat) (B : List Byte) : Bool := exceeds (B.length + 1) cap

/-- A hash message of `n` bytes would pass HASH_MAX_BYTES (R160, R161). -/
def hashTooLong (n : Nat) : Bool := decide (hashMaxBytes < n)

end Sys2Proof.Machine
end

