-- ==== Sys2Proof/Machine/Ops.lean ====
section
/-! DEFINITION. The shared operations of the commands: responding (30_encoding.md R72), entering a fault, being refused
while faulted, and the order of the checks (60_exceptions.md R241 to R243); and reset (70_reset_and_hazards.md R260),
the one way out of a fault. There is no trap return (R246). -/

namespace Sys2Proof.Machine

/-- End a command with a response (R10 `respond`, R72). -/
def respond (status : BitVec 8) (consumed : Nat) (frame : Option Frame) (out : List Byte) (s : State) : State :=
  { s with resp := some { status := status, consumed := consumed, frame := frame, out := out } }

/-- End a command with status OK and a byte output. -/
def respondOut (out : List Byte) (s : State) : State := respond 0x00 0 none out s

/-- A free buffer, within the bound R22 sets on `S.buf`. -/
def capacityBuffer (s : State) : List Byte :=
  match s.cfg.parserCapacity with
  | none => Config.capacityBuffer s.draws
  | some n => (Config.capacityBuffer s.draws).take n

/-- The buffer a fault leaves (R241): any value after CAPACITY, else unchanged. -/
def bufferAfterFault (c : Cause) (s : State) : List Byte :=
  match c with
  | .illegalCommand => s.blk.buf
  | .operandLength => s.blk.buf
  | .capacity => capacityBuffer s

/-- The next free value's index after a fault: CAPACITY has drawn one. -/
def drawsAfterFault (c : Cause) (s : State) : Nat :=
  match c with
  | .illegalCommand => s.draws
  | .operandLength => s.draws
  | .capacity => s.draws + 1

/-- Fault entry (R241). -/
def raiseFault (c : Cause) (s : State) : State :=
  respond c.code 0 none []
    { s with blk := { buf := bufferAfterFault c s, fault := true, cause := c.code }
             draws := drawsAfterFault c s }

/-- FAULTED: a command is not performed while a fault is pending (R242). -/
def refuseFaulted (s : State) : State := respond 0x80 0 none [] s

/-- The checks of R243 in their order, for every legal command but RD_STATUS: a pending fault, DATA_CAPACITY, the
command's own length check; then the command. Check 2 is the decoder's, check 5 stands in the command. -/
def checked (badLength : List Byte → Bool) (perform : State → State) (s : State) : State :=
  if s.blk.fault then refuseFaulted s
  else if operandTooLong s then raiseFault .operandLength s
  else if badLength s.operand then raiseFault .operandLength s
  else perform s

/-- Reset (R260): the block's three fields, and nothing else. A response returned earlier is the host's (R268). -/
def assertReset (s : State) : State := { s with blk := Block.reset }

end Sys2Proof.Machine
end

