-- ==== Sys2Proof/Machine/Control.lean ====
section
/-! DEFINITION. The control commands: RD_STATUS (44_control.md R190), and what an illegal command word does (R191). -/

namespace Sys2Proof.Machine

/-- A read of STATUS draws a free value where STAGE has none given (log entry 7). -/
def drawsAfterStatus (s : State) : Nat :=
  match stageGiven s.blk with
  | some _ => s.draws
  | none => s.draws + 1

/-- The STATUS word on the data output: `be_2(STATUS)` (R190, D27). -/
def readStatus (s : State) : State :=
  respondOut (toBigEndian 2 (statusWord s).toNat) { s with draws := drawsAfterStatus s }

/-- RD_STATUS (R190). With empty data it is the one command performed while a fault is pending (R242). -/
def execRdStatus (s : State) : Host.Outcome State Fault Refusal :=
  .next (if s.blk.fault && s.operand.isEmpty then readStatus s else checked operandNotEmpty readStatus s)

/-- A command word that decodes to ILLEGAL (R191): ILLEGAL_COMMAND, or FAULTED where a fault is pending. It comes
before every check of the operand (R243). -/
def illegalCommand (s : State) : State :=
  if s.blk.fault then refuseFaulted s else raiseFault .illegalCommand s

end Sys2Proof.Machine
end

