-- ==== Sys2Proof/Machine/Encoder.lean ====
section
/-! DEFINITION. FE, the outbound frame-header encoder: FE_HEADER and FE_FRAME (43_frame_encoder.md R180 to R182). -/

namespace Sys2Proof.Machine

/-- Byte 1 and the extended length (R180). -/
def feLength (L : Nat) : List Byte :=
  if L < 126 then [BitVec.ofNat 8 L]
  else if L ≤ 0xFFFF then 126 :: toBigEndian 2 L
  else 127 :: toBigEndian 8 L

/-- The header (R180): FIN 1, RSV 000, MASK 0. -/
def feHdr (op : Opcode) (L : Nat) : List Byte := (0x80 ||| op.setWidth 8) :: feLength L

/-- FE_HEADER after its length check (R181): L is the operand's 8 bytes. -/
def headerOperand (op : Opcode) (s : State) : State := respondOut (feHdr op (bigEndian s.operand)) s

/-- FE_FRAME after its length check (R182): the payload is copied unmasked (R134). -/
def frameOperand (op : Opcode) (s : State) : State :=
  respondOut (feHdr op s.operand.length ++ s.operand) s

/-- FE_FRAME as a command of the block: a next state whatever the operand. -/
def performFeFrame (op : Opcode) (s : State) : State := checked operandNoPayload (frameOperand op) s

/-- FE_HEADER (R181). -/
def execFeHeader (op : Opcode) (s : State) : Host.Outcome State Fault Refusal :=
  .next (checked operandNotEight (headerOperand op) s)

/-- FE_FRAME (R182). -/
def execFeFrame (op : Opcode) (s : State) : Host.Outcome State Fault Refusal :=
  .next (performFeFrame op s)

end Sys2Proof.Machine
end

