-- ==== Sys2Proof/Machine/Base64.lean ====
section
/-! DEFINITION. Base64 encoding (42_handshake_hasher.md R157), on byte sequences. -/

namespace Sys2Proof.Machine

/-- The character of an index 0 to 63 (R157): A to Z, a to z, 0 to 9, then + and /. -/
def b64Char (v : Nat) : Byte :=
  if v < 26 then BitVec.ofNat 8 (0x41 + v)
  else if v < 52 then BitVec.ofNat 8 (0x61 + (v - 26))
  else if v < 62 then BitVec.ofNat 8 (0x30 + (v - 52))
  else if v = 62 then 0x2B
  else 0x2F

/-- The pad character `=`. -/
def b64Pad : Byte := 0x3D

/-- The sextet of `v` whose low bit is bit `k`. -/
def sextet (v k : Nat) : Byte := b64Char ((v >>> k) &&& 63)

/-- Base64 (R157): three bytes to four characters, with `=` where the last group is short. -/
def b64 : List Byte → List Byte
  | [] => []
  | [x] =>
    let v := bigEndian [x] <<< 4
    [sextet v 6, sextet v 0, b64Pad, b64Pad]
  | [x, y] =>
    let v := bigEndian [x, y] <<< 2
    [sextet v 12, sextet v 6, sextet v 0, b64Pad]
  | x :: y :: z :: rest =>
    let v := bigEndian [x, y, z]
    sextet v 18 :: sextet v 12 :: sextet v 6 :: sextet v 0 :: b64 rest

end Sys2Proof.Machine
end

