-- ==== Sys2Proof/Machine/Sha1.lean ====
section
/-! DEFINITION. SHA-1 (42_handshake_hasher.md R150 to R156), on byte sequences. -/

namespace Sys2Proof.Machine

/-- ROTL_n (R151). -/
def rotl (n : Nat) (x : Word) : Word := (x <<< n) ||| (x >>> (32 - n))

/-- `word(s)` of a 4-byte sequence (R151). -/
def wordOf (s : List Byte) : Word := BitVec.ofNat 32 (bigEndian s)

/-- The least z with (n + 1 + z) mod 64 = 56 (R152). -/
def padZeros (n : Nat) : Nat := (119 - n % 64) % 64

/-- The padded message (R152). -/
def sha1Pad (m : List Byte) : List Byte :=
  m ++ [0x80] ++ List.replicate (padZeros m.length) 0 ++ toBigEndian 8 (8 * m.length)

/-- The first `k` blocks of 64 bytes. -/
def blocks64 : Nat → List Byte → List (List Byte)
  | 0, _ => []
  | k + 1, s => s.take 64 :: blocks64 k (s.drop 64)

/-- The hash value H0 to H4, and the working variables a to e. -/
structure Five where
  a : Word
  b : Word
  c : Word
  d : Word
  e : Word
deriving DecidableEq, Repr

/-- The initial hash value (R153). -/
def sha1Init : Five := ⟨0x67452301, 0xEFCDAB89, 0x98BADCFE, 0x10325476, 0xC3D2E1F0⟩

/-- The round function f_t (R153). -/
def roundF (t : Nat) (b c d : Word) : Word :=
  if t < 20 then (b &&& c) ^^^ (~~~b &&& d)
  else if t < 40 then b ^^^ c ^^^ d
  else if t < 60 then (b &&& c) ^^^ (b &&& d) ^^^ (c &&& d)
  else b ^^^ c ^^^ d

/-- The round constant K_t (R153). -/
def roundK (t : Nat) : Word :=
  if t < 20 then 0x5A827999
  else if t < 40 then 0x6ED9EBA1
  else if t < 60 then 0x8F1BBCDC
  else 0xCA62C1D6

/-- The first 16 words of the schedule (R154), for a block of 64 bytes. -/
def blockWords (X : List Byte) : List Word := (List.range 16).map fun t => wordOf (slice X (4 * t) 4)

/-- `k` more words (R154), on the words so far with the newest first: W[t−3], W[t−8], W[t−14], W[t−16]. -/
def extendWords : Nat → List Word → List Word
  | 0, w => w
  | k + 1, w =>
    extendWords k (rotl 1 (w.getD 2 0 ^^^ w.getD 7 0 ^^^ w.getD 13 0 ^^^ w.getD 15 0) :: w)

/-- The message schedule W[0] to W[79] of one block (R154). -/
def schedule (X : List Byte) : List Word := (extendWords 64 (blockWords X).reverse).reverse

/-- One round (R155). -/
def sha1Round (t : Nat) (w : Word) (v : Five) : Five :=
  { a := rotl 5 v.a + roundF t v.b v.c v.d + v.e + roundK t + w
    b := v.a
    c := rotl 30 v.b
    d := v.c
    e := v.d }

/-- The rounds from `t` on, one for each word of the schedule (R155). -/
def sha1Rounds : Nat → List Word → Five → Five
  | _, [], v => v
  | t, w :: ws, v => sha1Rounds (t + 1) ws (sha1Round t w v)

/-- Compression of one block into the hash value (R155). -/
def sha1Compress (h : Five) (X : List Byte) : Five :=
  let v := sha1Rounds 0 (schedule X) h
  ⟨h.a + v.a, h.b + v.b, h.c + v.c, h.d + v.d, h.e + v.e⟩

/-- `be_4` of the five words, in order (R156). -/
def digestBytes (h : Five) : List Byte :=
  toBigEndian 4 h.a.toNat ++ toBigEndian 4 h.b.toNat ++ toBigEndian 4 h.c.toNat ++ toBigEndian 4 h.d.toNat
    ++ toBigEndian 4 h.e.toNat

/-- SHA-1 (R150, R155, R156): the blocks compressed in order from the initial value. -/
def sha1 (m : List Byte) : List Byte :=
  digestBytes ((blocks64 ((sha1Pad m).length / 64) (sha1Pad m)).foldl sha1Compress sha1Init)

end Sys2Proof.Machine
end

