-- ==== Sys2Proof/Machine/Hasher.lean ====
section
/-! DEFINITION. HH, the handshake hasher: HH_ACCEPT, HH_SHA1, HH_B64 (42_handshake_hasher.md R159 to R162). -/

namespace Sys2Proof.Machine

/-- The GUID: 36 ASCII bytes (R159). -/
def guid : List Byte :=
  toBigEndian 36 0x32353845414641352d453931342d343744412d393543412d433541423044433835423131

/-- The accept token (R159): nonce first, GUID second. -/
def acceptToken (nonce : List Byte) : List Byte := b64 (sha1 (nonce ++ guid))

/-- HH_ACCEPT after the length checks (R160). -/
def acceptOperand (s : State) : State :=
  if hashTooLong (s.operand.length + 36) then raiseFault .capacity s
  else respondOut (acceptToken s.operand) s

/-- HH_SHA1 after the length checks (R161). -/
def sha1Operand (s : State) : State :=
  if hashTooLong s.operand.length then raiseFault .capacity s
  else respondOut (sha1 s.operand) s

/-- HH_B64 after the length checks (R162). -/
def b64Operand (s : State) : State := respondOut (b64 s.operand) s

/-- HH_ACCEPT (R160). The nonce is not validated (R163). -/
def execHhAccept (s : State) : Host.Outcome State Fault Refusal :=
  .next (checked operandAny acceptOperand s)

/-- HH_SHA1 (R161). -/
def execHhSha1 (s : State) : Host.Outcome State Fault Refusal :=
  .next (checked operandAny sha1Operand s)

/-- HH_B64 (R162). -/
def execHhB64 (s : State) : Host.Outcome State Fault Refusal :=
  .next (checked operandAny b64Operand s)

end Sys2Proof.Machine
end

