-- ==== Sys2Proof/Machine/Mask.lean ====
section
/-! DEFINITION. MX, the XOR masking unit: MX_XOR (41_masking.md R131). The mask function itself (R130) is `xorMask` of
Decode.lean, which FP's unmasking uses too. -/

namespace Sys2Proof.Machine

/-- MX_XOR after its length check: the operand is the key, then the bytes to transform. -/
def maskOperand (s : State) : State := respondOut (xorMask (s.operand.drop 4) (s.operand.take 4)) s

/-- MX_XOR (R131). -/
def execMxXor (s : State) : Host.Outcome State Fault Refusal :=
  .next (checked operandLacksKey maskOperand s)

end Sys2Proof.Machine
end

