-- ==== Sys2Proof/Machine/Parser.lean ====
section
/-! DEFINITION. FP, the frame parser: the byte step, FP_PUSH and FP_APPEND (40_frame_parser.md R100 to R102). -/

namespace Sys2Proof.Machine

/-- The byte step (R100): the new buffer, and the frame the byte completes. -/
def fpStep (B : List Byte) (b : Byte) : List Byte × Option Frame :=
  if complete (B ++ [b]) then ([], some (frameOf (B ++ [b]))) else (B ++ [b], none)

/-- How FP_APPEND's loop ends: its buffer, the bytes taken and the frame; or past PARSER_CAPACITY. -/
inductive AppendEnd where
  | taken (buf : List Byte) (consumed : Nat) (frame : Option Frame)
  | overCapacity
deriving DecidableEq, Repr

/-- FP_APPEND's loop (R102), from buffer `B` with `k` bytes already taken. It stops after the first frame (R103). -/
def appendLoop (cap : Option Nat) (B : List Byte) (k : Nat) : List Byte → AppendEnd
  | [] => .taken B k none
  | b :: rest =>
    if bufferFull cap B then .overCapacity
    else
      match fpStep B b with
      | (B', some f) => .taken B' (k + 1) (some f)
      | (B', none) => appendLoop cap B' (k + 1) rest

/-- The buffer written and the response given, once FP has taken bytes. -/
def fpRespond (buf : List Byte) (consumed : Nat) (frame : Option Frame) (s : State) : State :=
  respond 0x00 consumed frame [] { s with blk := { s.blk with buf := buf } }

/-- FP_PUSH after its length check (R101). -/
def pushByte (b : Byte) (s : State) : State :=
  if bufferFull s.cfg.parserCapacity s.blk.buf then raiseFault .capacity s
  else fpRespond (fpStep s.blk.buf b).1 1 (fpStep s.blk.buf b).2 s

/-- FP_APPEND after its length check (R102). -/
def appendSlice (s : State) : State :=
  match appendLoop s.cfg.parserCapacity s.blk.buf 0 s.operand with
  | .taken buf k f => fpRespond buf k f s
  | .overCapacity => raiseFault .capacity s

/-- FP_PUSH (R101). -/
def execFpPush (b : Byte) (s : State) : Host.Outcome State Fault Refusal :=
  .next (checked operandNotEmpty (pushByte b) s)

/-- FP_APPEND (R102). -/
def execFpAppend (s : State) : Host.Outcome State Fault Refusal :=
  .next (checked operandAny appendSlice s)

end Sys2Proof.Machine
end

