-- ==== Sys2Proof/Machine/Utf8.lean ====
section
/-! DEFINITION. Well-formed UTF-8 (47_host_consumer.md R216). -/

namespace Sys2Proof.Machine

/-- A byte lies in a range. -/
def byteIn (lo hi : Nat) (b : Byte) : Bool := decide (lo ≤ b.toNat) && decide (b.toNat ≤ hi)

/-- R216's two-byte pattern. -/
def utf8Two (a b : Byte) : Bool := byteIn 0xC2 0xDF a && byteIn 0x80 0xBF b

/-- R216's four three-byte patterns: no overlong form, no surrogate. -/
def utf8Three (a b c : Byte) : Bool :=
  ((byteIn 0xE0 0xE0 a && byteIn 0xA0 0xBF b) || (byteIn 0xE1 0xEC a && byteIn 0x80 0xBF b) ||
   (byteIn 0xED 0xED a && byteIn 0x80 0x9F b) || (byteIn 0xEE 0xEF a && byteIn 0x80 0xBF b)) && byteIn 0x80 0xBF c

/-- R216's three four-byte patterns: no overlong form, nothing above U+10FFFF. -/
def utf8Four (a b c d : Byte) : Bool :=
  ((byteIn 0xF0 0xF0 a && byteIn 0x90 0xBF b) || (byteIn 0xF1 0xF3 a && byteIn 0x80 0xBF b) ||
   (byteIn 0xF4 0xF4 a && byteIn 0x80 0x8F b)) && byteIn 0x80 0xBF c && byteIn 0x80 0xBF d

/-- `utf8_valid` (R216), with fuel for the characters; a sequence has at most as many as it has bytes. -/
def utf8Go : Nat → List Byte → Bool
  | _, [] => true
  | 0, _ :: _ => false
  | n + 1, a :: rest =>
    if byteIn 0x00 0x7F a then utf8Go n rest
    else
      match rest with
      | [] => false
      | b :: rest =>
        if utf8Two a b then utf8Go n rest
        else
          match rest with
          | [] => false
          | c :: rest =>
            if utf8Three a b c then utf8Go n rest
            else
              match rest with
              | [] => false
              | d :: rest => utf8Four a b c d && utf8Go n rest

/-- `utf8_valid(s)` (R216). The empty sequence is valid. -/
def utf8Valid (s : List Byte) : Bool := utf8Go s.length s

end Sys2Proof.Machine
end

