-- ==== Sys2Proof/Machine/Assembler.lean ====
section
/-! DEFINITION. The message reassembler: `append_fragment` (47_host_consumer.md R209 to R215). -/

namespace Sys2Proof.Machine

/-- What `append_fragment` answers: `Ok(None)`, `Ok(Some(m))` or `Err(e)`. -/
inductive FragmentResult where
  | more
  | message (m : Message)
  | error (e : HostError)
deriving DecidableEq, Repr

/-- The opcode-acceptance rule (R210). -/
def fragmentAccepted (startOp : Option Opcode) (op : Opcode) : Bool :=
  match startOp with
  | none => op == 0x1 || op == 0x2
  | some _ => op == 0x0

/-- The message of a finished accumulation (R214), by the remembered opcode. The last arm is never reached (R215). -/
def finishMessage (startOp : Option Opcode) (bytes : List Byte) : FragmentResult :=
  if startOp = some 0x1 then
    (if utf8Valid bytes then .message (.text bytes) else .error .invalidTextPayload)
  else if startOp = some 0x2 then .message (.binary bytes)
  else .error .unsupportedOpcode

/-- The opcode remembered once a fragment is accepted: its own where it starts a message (R211, R212). -/
def startOpAfter (startOp : Option Opcode) (op : Opcode) : Option Opcode :=
  match startOp with
  | none => some op
  | some o => some o

/-- `append_fragment(F)` (R210 to R214). -/
def appendFragment (op : Opcode) (fin : Bool) (payload : List Byte) (a : Assembler) :
    Assembler × FragmentResult :=
  if fragmentAccepted a.startOp op then
    if fin then (Assembler.reset, finishMessage (startOpAfter a.startOp op) (a.acc ++ payload))
    else ({ acc := a.acc ++ payload, startOp := startOpAfter a.startOp op }, .more)
  else (a, .error .unexpectedOpcode)

end Sys2Proof.Machine
end

