-- ==== Sys2Proof/Machine/Transport.lean ====
section
/-! DEFINITION. The transport oracle, as the host uses it (47_host_consumer.md R201, R202, R221, R228). -/

namespace Sys2Proof.Machine

/-- The bytes a retry loop gets through, the answers it leaves, and whether all was written (R221). -/
structure WriteEnd where
  written : List Byte
  plan : List TxAnswer
  ok : Bool
deriving DecidableEq, Repr

/-- The retry loop of `host_write_all` (R221): after a short write it goes on with the rest. Where the oracle's list
has run out, the transport takes everything (log entry 6). -/
def writeLoop : List TxAnswer → List Byte → WriteEnd
  | [], w => ⟨w, [], true⟩
  | .failure :: plan, w => if w.isEmpty then ⟨[], .failure :: plan, true⟩ else ⟨[], plan, false⟩
  | .accept extra :: plan, w =>
    if w.isEmpty then ⟨[], .accept extra :: plan, true⟩
    else
      let r := writeLoop plan (w.drop (extra + 1))
      ⟨w.take (extra + 1) ++ r.written, r.plan, r.ok⟩

/-- `host_write_all(w)` (R221): the transport after it, and whether it succeeded. A dropped connection fails (R228). -/
def writeAll (w : List Byte) (n : Transport) : Transport × Bool :=
  if n.down then (n, w.isEmpty)
  else
    let r := writeLoop n.txPlan w
    ({ n with txPlan := r.plan, tx := n.tx ++ r.written }, r.ok)

/-- `transport.read(up to n bytes)` (R201): a longer answer leaves its rest for the next read. Where the oracle's list
has run out, nothing has arrived: would-block (log entry 6). A dropped connection fails (R228). -/
def transportRead (n : Nat) (t : Transport) : RxAnswer × Transport :=
  if t.down then (.failure, t)
  else
    match t.rx with
    | [] => (.wouldBlock, t)
    | .wouldBlock :: rest => (.wouldBlock, { t with rx := rest })
    | .failure :: rest => (.failure, { t with rx := rest })
    | .bytes bs :: rest =>
      if bs.length ≤ n then (.bytes bs, { t with rx := rest })
      else (.bytes (bs.take n), { t with rx := .bytes (bs.drop n) :: rest })

end Sys2Proof.Machine
end

