-- ==== Sys2Proof/Machine/Wire.lean ====
section
/-! DEFINITION. The wire opcodes: the host's dispatch of one emitted frame (47_host_consumer.md R203 to R208). Every
frame is parsed alike (40_frame_parser.md R106); what differs is the host's handling, one definition for each opcode. -/

namespace Sys2Proof.Machine

/-- The read cycle ends and its call returns; the rest of the chunk is discarded (R201, R205, R208). -/
def endRead (r : CallResult) (s : State) : State :=
  { s with ses := { s.ses with reading := false, rem := [], msgs := [], ret := some r } }

/-- A message is delivered: it joins the list of this cycle (R201). -/
def deliver (m : Message) (s : State) : State :=
  { s with ses := { s.ses with msgs := s.ses.msgs ++ [m] } }

/-- `read()` returns a protocol error (R208, R219): the gathered messages are not returned, and the host owes a close
frame (R224). -/
def protocolError (e : HostError) (s : State) : State :=
  endRead (.error e) { s with ses := { s.ses with mustClose := true } }

/-- A call returns IoError (R219): the connection is dropped. -/
def ioFailure (s : State) : State :=
  endRead (.error .ioError) { s with net := { s.net with down := true } }

/-- The byte output of the last response. -/
def responseOut (s : State) : List Byte :=
  match s.resp with
  | none => []
  | some r => r.out

/-- `send(opcode, payload)` (R220): FE_FRAME is issued, then its output written. The flag says whether the write
succeeded. -/
def sendFrame (op : Opcode) (payload : List Byte) (s : State) : State × Bool :=
  let s1 := performFeFrame op { s with operand := payload }
  let r := writeAll (responseOut s1) s1.net
  ({ s1 with net := r.1 }, r.2)

/-- Dispatch of a data frame (R208). -/
def dispatchData (op : Opcode) (fin : Bool) (payload : List Byte) (s : State) : State :=
  let r := appendFragment op fin payload s.ses.asm
  let s1 := { s with ses := { s.ses with asm := r.1 } }
  match r.2 with
  | .more => s1
  | .message m => deliver m s1
  | .error e => protocolError e s1

/-- The close code of a payload (R205): its first two bytes, big-endian, where it has two. -/
def closeCode (payload : List Byte) : Option (BitVec 16) :=
  if 2 ≤ payload.length then some (BitVec.ofNat 16 (bigEndian (payload.take 2))) else none

/-- Dispatch of CLOSE (R205): the message is delivered, the session closed, the cycle stopped. -/
def dispatchClose (payload : List Byte) (s : State) : State :=
  endRead (.messages (s.ses.msgs ++ [.close (closeCode payload)]))
    { s with ses := { s.ses with closed := true } }

/-- Dispatch of PING (R206): the pong is sent before the cycle goes on; a failed write returns IoError. -/
def dispatchPing (payload : List Byte) (s : State) : State :=
  let r := sendFrame 0xA payload s
  if r.2 then r.1 else ioFailure r.1

/-- Dispatch of PONG and the reserved control opcodes (R207): nothing. -/
def dispatchIgnored (s : State) : State := s

/-- CONT (R210). -/
def execWireCont (fin : Bool) (_key : Option (List Byte)) (payload : List Byte) (s : State) :
    Host.Outcome State Fault Refusal := .next (dispatchData 0x0 fin payload s)

/-- TEXT (R211). -/
def execWireText (fin : Bool) (_key : Option (List Byte)) (payload : List Byte) (s : State) :
    Host.Outcome State Fault Refusal := .next (dispatchData 0x1 fin payload s)

/-- BINARY (R212). -/
def execWireBinary (fin : Bool) (_key : Option (List Byte)) (payload : List Byte) (s : State) :
    Host.Outcome State Fault Refusal := .next (dispatchData 0x2 fin payload s)

/-- Reserved data opcode 0x3 (R213). -/
def execWireData3 (fin : Bool) (_key : Option (List Byte)) (payload : List Byte) (s : State) :
    Host.Outcome State Fault Refusal := .next (dispatchData 0x3 fin payload s)

/-- Reserved data opcode 0x4 (R213). -/
def execWireData4 (fin : Bool) (_key : Option (List Byte)) (payload : List Byte) (s : State) :
    Host.Outcome State Fault Refusal := .next (dispatchData 0x4 fin payload s)

/-- Reserved data opcode 0x5 (R213). -/
def execWireData5 (fin : Bool) (_key : Option (List Byte)) (payload : List Byte) (s : State) :
    Host.Outcome State Fault Refusal := .next (dispatchData 0x5 fin payload s)

/-- Reserved data opcode 0x6 (R213). -/
def execWireData6 (fin : Bool) (_key : Option (List Byte)) (payload : List Byte) (s : State) :
    Host.Outcome State Fault Refusal := .next (dispatchData 0x6 fin payload s)

/-- Reserved data opcode 0x7 (R213). -/
def execWireData7 (fin : Bool) (_key : Option (List Byte)) (payload : List Byte) (s : State) :
    Host.Outcome State Fault Refusal := .next (dispatchData 0x7 fin payload s)

/-- CLOSE (R205). FIN is not read (R203). -/
def execWireClose (_fin : Bool) (_key : Option (List Byte)) (payload : List Byte) (s : State) :
    Host.Outcome State Fault Refusal := .next (dispatchClose payload s)

/-- PING (R206). FIN is not read (R203). -/
def execWirePing (_fin : Bool) (_key : Option (List Byte)) (payload : List Byte) (s : State) :
    Host.Outcome State Fault Refusal := .next (dispatchPing payload s)

/-- PONG (R207). -/
def execWirePong (_fin : Bool) (_key : Option (List Byte)) (_payload : List Byte) (s : State) :
    Host.Outcome State Fault Refusal := .next (dispatchIgnored s)

/-- Reserved control opcode 0xB (R207). -/
def execWireCtrlB (_fin : Bool) (_key : Option (List Byte)) (_payload : List Byte) (s : State) :
    Host.Outcome State Fault Refusal := .next (dispatchIgnored s)

/-- Reserved control opcode 0xC (R207). -/
def execWireCtrlC (_fin : Bool) (_key : Option (List Byte)) (_payload : List Byte) (s : State) :
    Host.Outcome State Fault Refusal := .next (dispatchIgnored s)

/-- Reserved control opcode 0xD (R207). -/
def execWireCtrlD (_fin : Bool) (_key : Option (List Byte)) (_payload : List Byte) (s : State) :
    Host.Outcome State Fault Refusal := .next (dispatchIgnored s)

/-- Reserved control opcode 0xE (R207). -/
def execWireCtrlE (_fin : Bool) (_key : Option (List Byte)) (_payload : List Byte) (s : State) :
    Host.Outcome State Fault Refusal := .next (dispatchIgnored s)

/-- Reserved control opcode 0xF (R207). -/
def execWireCtrlF (_fin : Bool) (_key : Option (List Byte)) (_payload : List Byte) (s : State) :
    Host.Outcome State Fault Refusal := .next (dispatchIgnored s)

end Sys2Proof.Machine
end

