-- ==== Sys2Proof/Machine/Dispatch.lean ====
section
/-! DEFINITION. What each instruction does: one arm for each row of spec/opcode_table.json. -/

namespace Sys2Proof.Machine

def exec (i : Instr) (s : State) : Host.Outcome State Fault Refusal :=
  match i with
  -- commands (30_encoding.md R73)
  | .fpPush b => Sys2Proof.Machine.execFpPush b s
  | .fpAppend => Sys2Proof.Machine.execFpAppend s
  | .mxXor => Sys2Proof.Machine.execMxXor s
  | .hhAccept => Sys2Proof.Machine.execHhAccept s
  | .hhSha1 => Sys2Proof.Machine.execHhSha1 s
  | .hhB64 => Sys2Proof.Machine.execHhB64 s
  | .feHeader op => Sys2Proof.Machine.execFeHeader op s
  | .feFrame op => Sys2Proof.Machine.execFeFrame op s
  | .rdStatus => Sys2Proof.Machine.execRdStatus s
  -- wire opcodes (30_encoding.md R80)
  | .wireCont fin key payload => Sys2Proof.Machine.execWireCont fin key payload s
  | .wireText fin key payload => Sys2Proof.Machine.execWireText fin key payload s
  | .wireBinary fin key payload => Sys2Proof.Machine.execWireBinary fin key payload s
  | .wireData3 fin key payload => Sys2Proof.Machine.execWireData3 fin key payload s
  | .wireData4 fin key payload => Sys2Proof.Machine.execWireData4 fin key payload s
  | .wireData5 fin key payload => Sys2Proof.Machine.execWireData5 fin key payload s
  | .wireData6 fin key payload => Sys2Proof.Machine.execWireData6 fin key payload s
  | .wireData7 fin key payload => Sys2Proof.Machine.execWireData7 fin key payload s
  | .wireClose fin key payload => Sys2Proof.Machine.execWireClose fin key payload s
  | .wirePing fin key payload => Sys2Proof.Machine.execWirePing fin key payload s
  | .wirePong fin key payload => Sys2Proof.Machine.execWirePong fin key payload s
  | .wireCtrlB fin key payload => Sys2Proof.Machine.execWireCtrlB fin key payload s
  | .wireCtrlC fin key payload => Sys2Proof.Machine.execWireCtrlC fin key payload s
  | .wireCtrlD fin key payload => Sys2Proof.Machine.execWireCtrlD fin key payload s
  | .wireCtrlE fin key payload => Sys2Proof.Machine.execWireCtrlE fin key payload s
  | .wireCtrlF fin key payload => Sys2Proof.Machine.execWireCtrlF fin key payload s

end Sys2Proof.Machine
end

