-- ==== Sys2Proof/Machine/Http.lean ====
section
/-! DEFINITION. The HTTP collaborator, as the host model consumes it (47_host_consumer.md R226): the request's headers,
the response builder, and the send. Log entries 18 and 23. -/

namespace Sys2Proof.Machine

/-- `get_header(name)` (R226): an exact, case-sensitive match among the collaborator's answers. -/
def getHeader (name : List Byte) (request : HttpRequest) : Option (List Byte) :=
  (request.headers.find? fun h => h.1 == name).map Prod.snd

/-- `get_http_version()` (R226). -/
def getHttpVersion (request : HttpRequest) : List Byte := request.version

/-- The builder of a response (R226): what has been set so far. -/
structure HttpBuilder where
  version : List Byte
  reason : List Byte
  code : Nat
  headers : List (List Byte × List Byte)
deriving DecidableEq, Repr

/-- `Content-Length`, in ASCII. -/
def contentLengthName : List Byte := toBigEndian 14 0x436f6e74656e742d4c656e677468

/-- The decimal digits of `n`, most significant first, with fuel. -/
def decimalGo : Nat → Nat → List Byte
  | 0, _ => []
  | k + 1, n => if n < 10 then [BitVec.ofNat 8 (0x30 + n)] else decimalGo k (n / 10) ++ [BitVec.ofNat 8 (0x30 + n % 10)]

/-- `n` in decimal ASCII. PRESUMED: the spec does not write Content-Length's value out (log entry 23). -/
def decimal (n : Nat) : List Byte := decimalGo (n + 1) n

/-- `status(version, reason, code)` (R226). -/
def httpStatus (version reason : List Byte) (code : Nat) : HttpBuilder :=
  { version := version, reason := reason, code := code, headers := [] }

/-- `.header(name, value)` (R226), which "rejects `Content-Length` as a manually-set header": DESIGN CHOICE, the builder
it returns is then the one it was given (log entry 23). -/
def HttpBuilder.header (name value : List Byte) (b : HttpBuilder) : HttpBuilder :=
  if name = contentLengthName then b else { b with headers := b.headers ++ [(name, value)] }

/-- `.payload(bytes)` (R226), which "auto-sets `Content-Length`": after the headers set before it (log entry 23). -/
def HttpBuilder.payload (bytes : List Byte) (b : HttpBuilder) : HttpResponse :=
  { version := b.version, reason := b.reason, code := b.code
    headers := b.headers ++ [(contentLengthName, decimal bytes.length)], body := some bytes }

/-- `.build()` (R226): "no body". -/
def HttpBuilder.build (b : HttpBuilder) : HttpResponse :=
  { version := b.version, reason := b.reason, code := b.code, headers := b.headers, body := none }

/-- `sendable.send(transport)` (R226): the response is handed over; the flag is the oracle's `sendOk`, and false where
the connection is down (log entry 10). -/
def sendResponse (r : HttpResponse) (sendOk : Bool) (s : State) : State × Bool :=
  ({ s with ses := { s.ses with http := some r } }, sendOk && !s.net.down)

end Sys2Proof.Machine
end

