-- ==== Sys2Proof/Machine/Session.lean ====
section
/-! DEFINITION. The host's calls: read and FEED up to their first FP_APPEND (47_host_consumer.md R201, R202), send and
its public forms (R220 to R222), the protocol-error close (R224) and the handshake (R225, R226). -/

namespace Sys2Proof.Machine

/-- Framed I/O is the host's to do only on an Open session (R223, R262); otherwise the host model refuses it. -/
def onOpenSession (s : State) (go : State → Host.Outcome State Fault Refusal) : Host.Outcome State Fault Refusal :=
  if s.ses.framed then
    if s.ses.closed then .refused .sessionClosed else go s
  else .refused .sessionNotOpen

/-- A read cycle begins on a chunk (R201): nothing gathered yet. -/
def startCycle (chunk : List Byte) (s : State) : State :=
  { s with ses := { s.ses with reading := true, rem := chunk, msgs := [] } }

/-- The transport read of `read()` (R201). Would-block is an empty list of messages; a failure is IoError. -/
def beginRead (s : State) : State :=
  let r := transportRead s.cfg.readChunk s.net
  let s1 := { s with net := r.2 }
  match r.1 with
  | .wouldBlock => endRead (.messages []) s1
  | .failure => ioFailure s1
  | .bytes bs => startCycle bs s1

/-- A call other than read returns. -/
def returnDone (s : State) : State := { s with ses := { s.ses with ret := some .done } }

/-- `send(opcode, payload)` as a call (R220): it returns IoError where the write fails (R219, R221). It sets no closed
flag whatever the opcode: DESIGN CHOICE for opcode 0x8, where R222 gives the flag to close() and R223 speaks of sending
a close frame (log entry 22). -/
def callSend (op : Opcode) (payload : List Byte) (s : State) : State :=
  let r := sendFrame op payload s
  if r.2 then returnDone r.1 else ioFailure r.1

/-- The payload of a close frame (R222): `be_2(code)`, or empty. -/
def closePayload (code : Option (BitVec 16)) : List Byte :=
  match code with
  | none => []
  | some c => toBigEndian 2 c.toNat

/-- `close(c)` (R222): the closed flag is set, whether or not the write succeeds (log entry 9). -/
def callClose (code : Option (BitVec 16)) (s : State) : State :=
  callSend 0x8 (closePayload code) { s with ses := { s.ses with closed := true } }

/-- The close frame the host owes after a protocol error (R224), with PROTOCOL_ERROR_CODE. -/
def protocolClose (s : State) : State :=
  callClose (some s.cfg.protocolErrorCode) { s with ses := { s.ses with mustClose := false } }

/-- `Sec-WebSocket-Key`, in ASCII. -/
def keyHeaderName : List Byte := toBigEndian 17 0x5365632d576562536f636b65742d4b6579

/-- `Sec-WebSocket-Accept`, in ASCII. -/
def acceptHeaderName : List Byte := toBigEndian 20 0x5365632d576562536f636b65742d416363657074

/-- `Upgrade`, in ASCII. -/
def upgradeText : List Byte := toBigEndian 7 0x55706772616465

/-- `websocket`, in ASCII. -/
def websocketText : List Byte := toBigEndian 9 0x776562736f636b6574

/-- `Connection`, in ASCII. -/
def connectionText : List Byte := toBigEndian 10 0x436f6e6e656374696f6e

/-- `Switching Protocols`, in ASCII. -/
def switchingText : List Byte := toBigEndian 19 0x537769746368696e672050726f746f636f6c73

/-- The 101 response (R225), built as the source builds it, its headers in the source's order (D40). -/
def upgradeResponse (version token : List Byte) : HttpResponse :=
  (httpStatus version switchingText 101
    |>.header upgradeText websocketText
    |>.header connectionText upgradeText
    |>.header acceptHeaderName token).build

/-- HH_ACCEPT as a command of the block: a next state whatever the operand. -/
def performHhAccept (s : State) : State := checked operandAny acceptOperand s

/-- The buffer as framed mode is entered: empty (R225; DEDUCED that R225 assigns it: log entry 8). While a fault is pending
it stays the buffer the fault left, which R31 reads STAGE from, and which after CAPACITY is any value until reset (R241,
D32, U2; log entry 24). -/
def bufferEnteringFramed (b : Block) : List Byte := if b.fault then b.buf else []

/-- Framed mode is entered (R225): session Open, the parser buffer and the reassembler empty. -/
def enterFramed (s : State) : State :=
  { s with blk := { s.blk with buf := bufferEnteringFramed s.blk }
           ses := { s.ses with framed := true, closed := false, asm := Assembler.reset } }

/-- The handshake, once the key is there (R225): HH_ACCEPT is issued and the response sent. A send that reports false,
or on a dropped connection, is IoError, and framed mode is not entered (R226, D35). -/
def handshakeWithKey (version key : List Byte) (sendOk : Bool) (s : State) : State :=
  let s1 := performHhAccept { s with operand := key }
  let r := sendResponse (upgradeResponse version (responseOut s1)) sendOk s1
  if r.2 then returnDone (enterFramed r.1) else ioFailure r.1

/-- `handshake(request)` (R225). Without the key it is a fatal precondition failure. -/
def callHandshake (request : HttpRequest) (sendOk : Bool) (s : State) : Host.Outcome State Fault Refusal :=
  if s.ses.framed then .refused .handshakeRepeated
  else
    match getHeader keyHeaderName request with
    | none => .fault .missingWebSocketKey
    | some key => .next (handshakeWithKey (getHttpVersion request) key sendOk s)

end Sys2Proof.Machine
end

