-- ==== Sys2Proof/Machine/Sequencer.lean ====
section
/-! DEFINITION. Who moves next, and what the move is (47_host_consumer.md R201, R204, R224; 10_state.md R21): issuing a
command word, one turn of the read cycle, dispatching an emitted frame, and the host's calls. -/

namespace Sys2Proof.Machine

/-- A command is presented and performed (R70, R74, R191): decode reads the word alone. -/
def issue (cw : BitVec 16) (data : List Byte) (s : State) : Host.Outcome State Fault Refusal :=
  match decodeWord cw with
  | .ok i => exec i { s with operand := data }
  | .error _ => .next (illegalCommand { s with operand := data })

/-- What FP took of the last command, and the frame it emitted. -/
def takenFrom (r : Option Response) : Nat × Option Frame :=
  match r with
  | none => (0, none)
  | some r => (r.consumed, r.frame)

/-- After the FP_APPEND of a read cycle (R201): the bytes it took leave the chunk, and its frame waits for dispatch. -/
def absorb (s : State) : State :=
  { s with ses := { s.ses with rem := s.ses.rem.drop (takenFrom s.resp).1, pending := (takenFrom s.resp).2 } }

/-- One turn of the read cycle's loop (R201): FP_APPEND of the unread rest. -/
def cycleTurn (s : State) : Host.Outcome State Fault Refusal :=
  match issue 0x0300 s.ses.rem s with
  | .next t => .next (absorb t)
  | .fault r => .fault r
  | .refused r => .refused r

/-- The host's next move of its program. -/
def makeMove (m : Move) (s : State) : Host.Outcome State Fault Refusal :=
  match m with
  | .command cw data => issue cw data s
  | .reset => .next (assertReset s)
  | .read => onOpenSession s fun s => .next (beginRead s)
  | .feed bytes => onOpenSession s fun s => .next (startCycle bytes s)
  | .send op payload => onOpenSession s fun s => .next (callSend op payload s)
  | .sendText utf8 =>
    onOpenSession s fun s => if utf8Valid utf8 then .next (callSend 0x1 utf8 s) else .refused .notUtf8
  | .sendBytes bytes => onOpenSession s fun s => .next (callSend 0x2 bytes s)
  | .close code => onOpenSession s fun s => .next (callClose code s)
  | .handshake request sendOk => callHandshake request sendOk s

/-- One move: an emitted frame is dispatched first (R204), then the close owed (R224), then the read cycle goes on or
returns (R201), then the program's next move. With nothing to do, nothing happens (R253). -/
def advance (s : State) : Host.Outcome State Fault Refusal :=
  match s.ses.pending with
  | some f => exec (instrOfFrame f) { s with ses := { s.ses with pending := none } }
  | none =>
    if s.ses.mustClose then .next (protocolClose s)
    else if s.ses.reading then
      if s.ses.rem.isEmpty then .next (endRead (.messages s.ses.msgs) s) else cycleTurn s
    else
      match s.program with
      | [] => .next s
      | m :: rest => makeMove m { s with program := rest }

/-- The state once the step's interjection has been taken from the list. -/
def onward (s : State) : State := { s with between := s.between.tail }

/-- What falls before a step comes first, whatever call the host is in: reset is taken between commands (R260, R227), and
STATUS may be read "at any time" (R227), as a command of its own. -/
def takeStep (s : State) : Host.Outcome State Fault Refusal :=
  match s.between.head? with
  | none => advance (onward s)
  | some .quiet => advance (onward s)
  | some .reset => .next (assertReset (onward s))
  | some .readStatus => issue 0x4000 [] (onward s)

/-- The shortest data operand of zeros a command takes: 4 key bytes for MX_XOR, 8 length bytes for FE_HEADER. -/
def zeroOperand (i : Instr) : List Byte :=
  match i with
  | .mxXor => List.replicate 4 0
  | .feHeader _ => List.replicate 8 0
  | _ => []

/-- The data operand of zeros for a command word. -/
def zeroOperandOf (cw : BitVec 16) : List Byte :=
  match decodeWord cw with
  | .ok i => zeroOperand i
  | .error _ => []

/-- The state in which the next move is the next entry of the program, and nothing falls before it. -/
def atProgram (s : State) : State :=
  { s with between := [], ses := { s.ses with pending := none, mustClose := false, reading := false } }

/-- A command word placed as the host's next move. -/
def placeCommand (cw : BitVec 16) (s : State) : State :=
  { atProgram s with program := .command cw (zeroOperandOf cw) :: s.program }

/-- An emitted frame placed as the next to be dispatched, in a read cycle whose chunk it ended. -/
def placeFrame (f : Frame) (s : State) : State :=
  { s with between := [], ses := { s.ses with pending := some f, reading := true, rem := [] } }

end Sys2Proof.Machine
end

