-- ==== Sys2Proof/Machine/Step.lean ====
section
/-! DEFINITION. The step: one command of the block, or one move of the host around it. -/

namespace Sys2Proof.Machine

/-- One step (see `takeStep` and `advance` in Sequencer.lean). -/
def step (s : State) : Host.Outcome State Fault Refusal := takeStep s

/-- `s` with the instruction of a table row placed where the step takes its next one. A 16-bit word is the host's next
command, with the shortest operand of zeros it takes. An 8-bit value is byte 0 of the two-byte frame FP has just
emitted (its second byte zero), waiting for dispatch. Log entry 2. -/
def State.withFetchWord (s : State) (nbits w : Nat) : State :=
  if nbits = 8 then placeFrame (frameOf [BitVec.ofNat 8 w, 0]) s else placeCommand (BitVec.ofNat 16 w) s

end Sys2Proof.Machine
end

