-- ==== Sys2Proof/Safety.lean ====
section
/-! DEFINITION. The terms claims use: what a sound state is (10_state.md R22, R27, R29; 60_exceptions.md R240;
47_host_consumer.md R209, R215, R223), when a command executes normally (60_exceptions.md R243), when the next move is
the program's, and the two ways to feed a byte stream (40_frame_parser.md R105). -/

namespace Sys2Proof.Machine

/-- R29: no non-empty prefix of the buffer is complete. -/
def NoCompletePrefix (B : List Byte) : Prop :=
  ∀ n, 0 < n → n ≤ B.length → complete (B.take n) = false

/-- A count within a bound; none is ∞ (R6). -/
def Within (n : Nat) (bound : Option Nat) : Prop := ∀ cap, bound = some cap → n ≤ cap

/-- R22, R29, R240: a sound block, for a given PARSER_CAPACITY. -/
structure Block.Sound (cap : Option Nat) (b : Block) : Prop where
  /-- R29. -/
  prefixes : b.fault = false → NoCompletePrefix b.buf
  /-- R22: 0 ≤ len ≤ PARSER_CAPACITY. -/
  bounded : Within b.buf.length cap
  /-- No fault, no cause (R33, R241). -/
  causeClear : b.fault = false → b.cause = 0x00
  /-- Only the three recorded causes (R240). -/
  causeKnown : b.fault = true → b.cause = 0x01 ∨ b.cause = 0x02 ∨ b.cause = 0x03

/-- R72, R240: a response of the block. -/
structure Response.Sound (r : Response) : Prop where
  /-- Only the codes of R240 are returned. -/
  statusKnown : r.status = 0x00 ∨ r.status = 0x01 ∨ r.status = 0x02 ∨ r.status = 0x03 ∨ r.status = 0x80
  /-- A response with `status ≠ 0x00` carries nothing (R72). -/
  failedEmpty : r.status ≠ 0x00 → r.consumed = 0 ∧ r.frame = none ∧ r.out = []
  /-- A frame in a response is as R27 says. -/
  frameWf : ∀ f, r.frame = some f → f.wf = true

/-- R209, R215: the reassembler's state is empty, or a TEXT or BINARY message is in progress. -/
structure Assembler.Sound (a : Assembler) : Prop where
  startKnown : a.startOp = none ∨ a.startOp = some 0x1 ∨ a.startOp = some 0x2
  emptyIdle : a.startOp = none → a.acc = []

/-- The invariant of the whole machine. -/
structure State.Sound (s : State) : Prop where
  block : s.blk.Sound s.cfg.parserCapacity
  response : ∀ r, s.resp = some r → r.Sound
  assembler : s.ses.asm.Sound
  /-- A frame waits for dispatch only inside a read cycle (R201, R204), and is as R27 says. -/
  pendingWf : ∀ f, s.ses.pending = some f → f.wf = true ∧ s.ses.reading = true
  /-- A Closed session reads nothing more (R205, R223). -/
  closedIdle : s.ses.closed = true → s.ses.reading = false
  /-- The read cycle is over when the host owes a close frame (R208, R224). -/
  owedIdle : s.ses.mustClose = true → s.ses.reading = false
  /-- Outside a read cycle no message is held back (R201). -/
  idleEmpty : s.ses.reading = false → s.ses.msgs = []

/-- R243, checks 1 and 3 passed: no fault is pending, and the data operand is within DATA_CAPACITY. -/
def Ready (s : State) : Prop := s.blk.fault = false ∧ Within s.operand.length s.cfg.dataCapacity

/-- Nothing falls before the next step: the list has run out, or its entry is quiet. -/
def Quiet (s : State) : Prop := ∀ i, s.between.head? = some i → i = .quiet

/-- The next move is the program's: nothing before it, no frame to dispatch, no close owed, no read cycle. -/
def AtProgram (s : State) : Prop :=
  Quiet s ∧ s.ses.pending = none ∧ s.ses.mustClose = false ∧ s.ses.reading = false

/-- The nine commands of the block (R73). -/
def IsCommand (i : Instr) : Prop := i.toFrame = none

/-- The state after a command that responded OK and changed nothing but its response (R34, R58). -/
def withOutput (out : List Byte) (s : State) : State :=
  { s with resp := some { status := 0x00, consumed := 0, frame := none, out := out } }

/-- The state after a precise fault (R241): the buffer kept, the fault and its cause recorded and answered. -/
def withPreciseFault (code : BitVec 8) (s : State) : State :=
  { s with blk := { buf := s.blk.buf, fault := true, cause := code }
           resp := some { status := code, consumed := 0, frame := none, out := [] } }

/-- The state after a command refused with FAULTED (R242). -/
def withFaulted (s : State) : State :=
  { s with resp := some { status := 0x80, consumed := 0, frame := none, out := [] } }

/-- The state after `read()` has returned a protocol error (R201, R208, R224): the cycle is over, the gathered messages
and the rest of the chunk are gone, and the close frame is owed. -/
def withReadError (e : HostError) (s : State) : State :=
  { s with ses := { s.ses with
      reading := false, rem := [], msgs := [], mustClose := true, ret := some (.error e) } }

/-- The state after a message has joined the cycle's list (R201). -/
def withMessage (m : Message) (s : State) : State :=
  { s with ses := { s.ses with msgs := s.ses.msgs ++ [m] } }

/-- The state after the reassembler's state has been set (R209). -/
def withAssembler (acc : List Byte) (startOp : Option Opcode) (s : State) : State :=
  { s with ses := { s.ses with asm := { acc := acc, startOp := startOp } } }

/-- The frame of a response, as a list of at most one. -/
def framesOf (r : Option Response) : List Frame := (takenFrom r).2.toList

/-- Feed bytes one at a time with FP_PUSH (R105): the frames emitted and the final state, if every step answered one. -/
def pushAll : List Byte → State → Option (List Frame × State)
  | [], s => some ([], s)
  | b :: rest, s =>
    match exec (.fpPush b) { s with operand := [] } with
    | .next t => (pushAll rest t).map fun r => (framesOf t.resp ++ r.1, r.2)
    | .fault _ => none
    | .refused _ => none

/-- The buffer gathered from a buffer and the bytes of a stream, one at a time (R100). -/
def gather (B T : List Byte) : List Byte := T.foldl (fun B b => (fpStep B b).1) B

/-- Feed one slice with the host loop (R201, R105): FP_APPEND of what is left until nothing is, with fuel. -/
def offerSlice : Nat → List Byte → State → Option (List Frame × State)
  | _, [], s => some ([], s)
  | 0, _ :: _, _ => none
  | n + 1, b :: rest, s =>
    match exec .fpAppend { s with operand := b :: rest } with
    | .next t =>
      (offerSlice n ((b :: rest).drop (takenFrom t.resp).1) t).map fun r => (framesOf t.resp ++ r.1, r.2)
    | .fault _ => none
    | .refused _ => none

/-- Feed the slices of a cut one after another (R105). A slice of `n` bytes needs at most `n` turns. -/
def offerAll : List (List Byte) → State → Option (List Frame × State)
  | [], s => some ([], s)
  | d :: rest, s =>
    match offerSlice d.length d s with
    | some r => (offerAll rest r.2).map fun q => (r.1 ++ q.1, q.2)
    | none => none

/-- A CAPACITY fault has been entered (R241): the fault and its cause are recorded and answered, nothing of the host's
is touched, and `S.buf` is any value within its bound (a free value; `draws` is the model's own counter). -/
def CapacityEntered (s : State) (o : Host.Outcome State Fault Refusal) : Prop :=
  ∃ B d, Within B.length s.cfg.parserCapacity ∧
    o = .next { s with
      blk := { buf := B, fault := true, cause := 0x03 }
      draws := d
      resp := some { status := 0x03, consumed := 0, frame := none, out := [] } }

/-- An illegal command word, as R82 lists them: a reserved CMD; a set IMM bit where the whole IMM is reserved; a set
IMM[7:4] bit for FE_HEADER and FE_FRAME. -/
def IllegalWord (cw : BitVec 16) : Prop :=
  let cmd := cw.toNat / 256
  let imm := cw.toNat % 256
  cmd ∉ [0x02, 0x03, 0x10, 0x20, 0x21, 0x22, 0x30, 0x31, 0x40] ∨
    (cmd ∈ [0x03, 0x10, 0x20, 0x21, 0x22, 0x40] ∧ imm ≠ 0) ∨
    (cmd ∈ [0x30, 0x31] ∧ imm / 16 ≠ 0)

/-- R216's nine byte patterns, as ranges. -/
def utf8Patterns : List (List (Nat × Nat)) :=
  [[(0x00, 0x7F)],
   [(0xC2, 0xDF), (0x80, 0xBF)],
   [(0xE0, 0xE0), (0xA0, 0xBF), (0x80, 0xBF)],
   [(0xE1, 0xEC), (0x80, 0xBF), (0x80, 0xBF)],
   [(0xED, 0xED), (0x80, 0x9F), (0x80, 0xBF)],
   [(0xEE, 0xEF), (0x80, 0xBF), (0x80, 0xBF)],
   [(0xF0, 0xF0), (0x90, 0xBF), (0x80, 0xBF), (0x80, 0xBF)],
   [(0xF1, 0xF3), (0x80, 0xBF), (0x80, 0xBF), (0x80, 0xBF)],
   [(0xF4, 0xF4), (0x80, 0x8F), (0x80, 0xBF), (0x80, 0xBF)]]

/-- A character's bytes lie in a pattern's ranges, byte for byte. -/
def FitsPattern (char : List Byte) (p : List (Nat × Nat)) : Prop :=
  char.length = p.length ∧ ∀ (i : Nat) (b : Byte) (r : Nat × Nat),
    char[i]? = some b → p[i]? = some r → r.1 ≤ b.toNat ∧ b.toNat ≤ r.2

/-- The spec's header (R180), written out: byte 0 is 0x80 + opcode; then the length in the shortest form. -/
def specHeader (op : Opcode) (L : Nat) : List Byte :=
  BitVec.ofNat 8 (0x80 + op.toNat) ::
    (if L < 126 then [BitVec.ofNat 8 L]
     else if L ≤ 0xFFFF then 0x7E :: toBigEndian 2 L
     else 0x7F :: toBigEndian 8 L)

/-- One round of R155, written out: T, and the five assignments. -/
def specRound (W : List Word) (v : Five) (t : Nat) : Five :=
  let T := rotl 5 v.a + roundF t v.b v.c v.d + v.e + roundK t + W.getD t 0
  { e := v.d, d := v.c, c := rotl 30 v.b, b := v.a, a := T }

/-- The message a finished text accumulation gives, or the error (R214). -/
def finishText (bytes : List Byte) (s : State) : State :=
  if utf8Valid bytes then withMessage (.text bytes) (withAssembler [] none s)
  else withReadError .invalidTextPayload (withAssembler [] none s)

/-- What a run of short writes takes: each at least one byte (R228). -/
def shortWrites (short : List Nat) : Nat := (short.map (· + 1)).sum

/-- A transport that takes a write of `len` bytes whole: it is up, and any failure among its coming answers stands
behind short writes that take them all (R228). -/
def Takes (n : Transport) (len : Nat) : Prop :=
  n.down = false ∧ ∀ short plan, n.txPlan = short.map .accept ++ .failure :: plan → len ≤ shortWrites short

/-- A transport that fails a write of `len` bytes: after short writes that do not take them all, with `plan` left of its
answers; or at once, where it is down (log entry 10). -/
def WriteFails (n : Transport) (len : Nat) (short : List Nat) (plan : List TxAnswer) : Prop :=
  (n.down = false ∧ n.txPlan = short.map .accept ++ .failure :: plan ∧ shortWrites short < len) ∨
    (n.down = true ∧ short = [] ∧ plan = n.txPlan)

/-- The state after FE_FRAME of a payload and the write of all its bytes, with what is left of the oracle's answers. -/
def withSent (op : Opcode) (payload : List Byte) (plan : List TxAnswer) (s : State) : State :=
  { withOutput (specHeader op payload.length ++ payload) { s with operand := payload } with
    net := { s.net with txPlan := plan, tx := s.net.tx ++ (specHeader op payload.length ++ payload) } }

/-- The state after FE_FRAME of a payload and a write that failed after short writes: what was written stays written, the
connection is down (log entry 10), and the call has returned IoError (R219, R221). -/
def withSendFailure (op : Opcode) (payload : List Byte) (short : List Nat) (plan : List TxAnswer) (s : State) : State :=
  { withOutput (specHeader op payload.length ++ payload) { s with operand := payload } with
    net := { s.net with
      txPlan := plan, down := true
      tx := s.net.tx ++ (specHeader op payload.length ++ payload).take (shortWrites short) }
    ses := { s.ses with reading := false, rem := [], msgs := [], ret := some (.error .ioError) } }

/-- The host's dispatch of a list of fragments, in order, whether or not one of them ends the read. -/
def dispatchAll : List Frame → State → Option State
  | [], s => some s
  | f :: rest, s =>
    match exec (instrOfFrame f) s with
    | .next t => dispatchAll rest t
    | .fault _ => none
    | .refused _ => none

end Sys2Proof.Machine
end

