-- ==== Sys2Proof/Certificates/Slice0/Obligations.lean ====
section
/-! DEFINITION. What is claimed of the model, for the provers. Each docstring names the rules of spec/ it formalises.
Every statement is over all states, and so for every value of the parameters of 00_scope.md R6, which State carries.
"withOutput", "withFaulted", "withPreciseFault" and the like (Safety.lean) are the state with the named fields set and
EVERY other field as before: a result statement is its own frame statement. Where a statement rests on a value or a
behaviour the model chose, its docstring names the log entry. -/

open Sys2Proof Sys2Proof.Machine

/-! ### Decoding and encoding -/

/-- 30_encoding.md R73, R83 and 95_test_vectors.md FP-2, FP-17: words and frames written out from their encodings. -/
def Obligations.KnownWordsDecode : Prop :=
  decode (.word 0x0281) = .ok (.fpPush 0x81) ∧
  decode (.word 0x0300) = .ok .fpAppend ∧
  decode (.word 0x1000) = .ok .mxXor ∧
  decode (.word 0x2000) = .ok .hhAccept ∧
  decode (.word 0x300F) = .ok (.feHeader 0xF) ∧
  decode (.word 0x310A) = .ok (.feFrame 0xA) ∧
  decode (.word 0x4000) = .ok .rdStatus ∧
  decode (.word 0x0301) = .error .reservedImmediate ∧
  decode (.word 0x0100) = .error .reservedCommand ∧
  decode (.frame (toBigEndian 11 0x818537fa213d7f9f4d5158)) =
    .ok (.wireText true (some (toBigEndian 4 0x37fa213d)) (toBigEndian 5 0x48656c6c6f)) ∧
  decode (.frame (toBigEndian 10 0x89fe0002aabbccdd0102)) =
    .ok (.wirePing true (some (toBigEndian 4 0xaabbccdd)) (toBigEndian 2 0xabb9)) ∧
  decode (.frame (toBigEndian 3 0x817e00)) = .error .incompleteFrame

/-- 30_encoding.md R74: exactly one command row of the opcode table matches a legal word, the row of the instruction
decode gives; no row matches an illegal one. -/
def Obligations.DecodeFollowsOpcodeTable : Prop :=
  ∀ cw : BitVec 16,
    match decodeWord cw with
    | .ok i => commandRows.filter (fun r => cw.toNat &&& r.mask == r.value) = [tableRow i]
    | .error _ => commandRows.filter (fun r => cw.toNat &&& r.mask == r.value) = []

/-- 30_encoding.md R73, R74: each command word has one meaning, and the encoder gives it back. -/
def Obligations.CommandWordsRoundTrip : Prop :=
  ∀ (cw : BitVec 16) (i : Instr), decode (.word cw) = .ok i ↔ encode i = .word cw

/-- Decoding the encoding of any well-formed instruction gives it back, with every operand. -/
def Obligations.InstructionsRoundTrip : Prop :=
  ∀ i : Instr, i.wf = true → decode (encode i) = .ok i

/-- 30_encoding.md R76 to R78, R81: a frame written with any RSV bits, in any of the six formats that holds its
length, shortest or not, decodes to the same instruction. The spec marks R77 as derived. -/
def Obligations.EveryFrameFormatDecodes : Prop :=
  ∀ (i : Instr) (f : Frame) (rsv : BitVec 3) (form : LenForm),
    i.wf = true → i.toFrame = some f → form.holds f.payload.length = true →
      decode (.frame (encodeFrame rsv form f)) = .ok i

/-- 30_encoding.md R79: nothing but the count marks the end of a frame. Every shorter prefix is an incomplete frame,
and every byte more is beyond it. The spec marks R79 as derived. -/
def Obligations.FrameEndsByCountAlone : Prop :=
  ∀ (f : Frame) (rsv : BitVec 3) (form : LenForm), f.wf = true → form.holds f.payload.length = true →
    (∀ n, n < (encodeFrame rsv form f).length →
      decodeFrame ((encodeFrame rsv form f).take n) = .error .incompleteFrame) ∧
    (∀ extra, extra ≠ [] → decodeFrame (encodeFrame rsv form f ++ extra) = .error .bytesAfterFrame)

/-! ### The step -/

/-- When the host's next move is a command whose word decodes, the step is that instruction's meaning, at the state with
the move taken and its data operand presented (10_state.md R21, 30_encoding.md R70). Where STATUS is read before the step
(47_host_consumer.md R227: "read it at any time"), the step is RD_STATUS with empty data and nothing else, whatever the
host is doing; that such a read is an entry of a list is the model's choice (log entry 3). -/
def Obligations.StepPerformsIssuedCommand : Prop :=
  (∀ (s : State) (cw : BitVec 16) (data : List Byte) (rest : List Move) (i : Instr),
    AtProgram s → s.program = .command cw data :: rest → decodeWord cw = .ok i →
      step s = exec i { onward s with program := rest, operand := data }) ∧
  (∀ (s : State) (rest : List Interjection), s.between = .readStatus :: rest →
    step s = exec .rdStatus { s with between := rest, operand := [] })

/-- When a frame waits for dispatch, the step is the meaning of its wire instruction, with the frame taken
(47_host_consumer.md R204). The spec marks R204 as derived. -/
def Obligations.StepDispatchesEmittedFrame : Prop :=
  ∀ (s : State) (f : Frame) (i : Instr),
    Quiet s → s.ses.pending = some f → i.toFrame = some f →
      step s = exec i { onward s with ses := { s.ses with pending := none } }

/-- 47_host_consumer.md R201: a turn of the read cycle is FP_APPEND of the unread rest, whose taken bytes leave the rest
and whose frame waits for dispatch; with nothing left, the call returns the messages gathered. -/
def Obligations.StepTurnsReadCycle : Prop :=
  ∀ s : State, Quiet s → s.ses.pending = none → s.ses.mustClose = false → s.ses.reading = true →
    (s.ses.rem ≠ [] → ∃ t r, exec .fpAppend { onward s with operand := s.ses.rem } = .next t ∧ t.resp = some r ∧
      step s = .next { t with ses := { s.ses with rem := s.ses.rem.drop r.consumed, pending := r.frame } }) ∧
    (s.ses.rem = [] → step s = .next { onward s with ses := { s.ses with
        reading := false, msgs := [], ret := some (.messages s.ses.msgs) } })

/-- 30_encoding.md R82, 44_control.md R191, 60_exceptions.md R241, R243: an illegal command word raises
ILLEGAL_COMMAND whatever its data operand, or answers FAULTED where a fault is pending; the buffer is kept. -/
def Obligations.IllegalWordFaults : Prop :=
  ∀ (s : State) (cw : BitVec 16) (data : List Byte) (rest : List Move),
    AtProgram s → s.program = .command cw data :: rest → IllegalWord cw →
    (s.blk.fault = false → step s = .next (withPreciseFault 0x01 { onward s with program := rest, operand := data })) ∧
    (s.blk.fault = true → step s = .next (withFaulted { onward s with program := rest, operand := data }))

/-- 60_exceptions.md R253: with nothing to do, nothing happens; the state is kept. -/
def Obligations.IdleKeepsState : Prop :=
  ∀ s : State, AtProgram s → s.program = [] → step s = .next (onward s)

/-! ### FP, the frame parser -/

/-- 40_frame_parser.md R100, R101: FP_PUSH appends its byte; if the buffer is then complete, its frame is emitted and the
buffer emptied. -/
def Obligations.FpPushTakesByte : Prop :=
  ∀ (s : State) (b : Byte), Ready s → s.operand = [] → Within (s.blk.buf.length + 1) s.cfg.parserCapacity →
    exec (.fpPush b) s = .next
      (if complete (s.blk.buf ++ [b]) then
        { s with blk := { s.blk with buf := [] }
                 resp := some { status := 0x00, consumed := 1, frame := some (frameOf (s.blk.buf ++ [b])), out := [] } }
       else
        { s with blk := { s.blk with buf := s.blk.buf ++ [b] }
                 resp := some { status := 0x00, consumed := 1, frame := none, out := [] } })

/-- 40_frame_parser.md R102, R103: FP_APPEND takes every byte offered and emits nothing, if no byte completes a frame; or
it takes exactly the bytes up to the first that completes one, emits that frame, and holds nothing. The capacity bounds
the bytes it takes, not those it leaves (`CapacityFaults` says when it is passed). The spec marks R103 as derived. -/
def Obligations.FpAppendConsumption : Prop :=
  ∀ s : State, Ready s →
    (Within (s.blk.buf.length + s.operand.length) s.cfg.parserCapacity →
      (∀ j, 0 < j → j ≤ s.operand.length → complete (s.blk.buf ++ s.operand.take j) = false) →
      exec .fpAppend s = .next
        { s with blk := { s.blk with buf := s.blk.buf ++ s.operand }
                 resp := some { status := 0x00, consumed := s.operand.length, frame := none, out := [] } }) ∧
    (∀ k, 0 < k → k ≤ s.operand.length → Within (s.blk.buf.length + k) s.cfg.parserCapacity →
      complete (s.blk.buf ++ s.operand.take k) = true →
      (∀ j, 0 < j → j < k → complete (s.blk.buf ++ s.operand.take j) = false) →
      exec .fpAppend s = .next
        { s with blk := { s.blk with buf := [] }
                 resp := some { status := 0x00, consumed := k,
                                frame := some (frameOf (s.blk.buf ++ s.operand.take k)), out := [] } })

/-- 40_frame_parser.md R104: FP_APPEND of no data takes nothing, emits nothing and keeps the buffer. The spec marks
R104 as derived. -/
def Obligations.FpAppendOfNothing : Prop :=
  ∀ s : State, s.blk.fault = false → s.operand = [] →
    exec .fpAppend s = .next
      { s with resp := some { status := 0x00, consumed := 0, frame := none, out := [] } }

/-- 40_frame_parser.md R101, R102, 42_handshake_hasher.md R160, R161, 60_exceptions.md R241: passing PARSER_CAPACITY
before a frame completes, or HASH_MAX_BYTES, enters a CAPACITY fault. `S.buf` is then a free value (the model's choice
of form: log entry 7). -/
def Obligations.CapacityFaults : Prop :=
  ∀ s : State, Ready s →
    (∀ b cap, s.operand = [] → s.cfg.parserCapacity = some cap → cap < s.blk.buf.length + 1 →
      CapacityEntered s (exec (.fpPush b) s)) ∧
    (∀ cap, s.cfg.parserCapacity = some cap → s.blk.buf.length ≤ cap →
      cap < s.blk.buf.length + s.operand.length →
      (∀ j, 0 < j → s.blk.buf.length + j ≤ cap → complete (s.blk.buf ++ s.operand.take j) = false) →
      CapacityEntered s (exec .fpAppend s)) ∧
    (2 ^ 61 - 1 < s.operand.length + 36 → CapacityEntered s (exec .hhAccept s)) ∧
    (2 ^ 61 - 1 < s.operand.length → CapacityEntered s (exec .hhSha1 s))

/-- 40_frame_parser.md R105, SPLIT INDEPENDENCE: any cut of a byte stream into slices, empty ones allowed, fed with the
host's re-offering loop, emits the same frames and leaves the same block as the stream fed one byte at a time. The
capacity bounds the buffer each byte joins, not the stream. The spec marks R105 as derived. -/
def Obligations.SplitIndependence : Prop :=
  ∀ (slices : List (List Byte)) (s : State), s.blk.fault = false →
    (∀ n, n < slices.flatten.length →
      Within ((gather s.blk.buf (slices.flatten.take n)).length + 1) s.cfg.parserCapacity) →
    (∀ d ∈ slices, Within d.length s.cfg.dataCapacity) →
      ∃ frames a b, pushAll slices.flatten s = some (frames, a) ∧ offerAll slices s = some (frames, b) ∧
        a.blk = b.blk ∧ a.blk = { s.blk with buf := gather s.blk.buf slices.flatten }

/-- 40_frame_parser.md R106 to R108: FP accepts every frame. Whatever FIN, opcode, RSV and key, masked or not, in every
format that holds the length, shortest or not, its bytes are taken whole and the frame is emitted unmasked. -/
def Obligations.EveryFrameEmitted : Prop :=
  ∀ (s : State) (f : Frame) (rsv : BitVec 3) (form : LenForm), Ready s → s.blk.buf = [] →
    f.wf = true → form.holds f.payload.length = true → s.operand = encodeFrame rsv form f →
    Within s.operand.length s.cfg.parserCapacity →
      exec .fpAppend s = .next
        { s with resp := some { status := 0x00, consumed := s.operand.length, frame := some f, out := [] } }

/-- 43_frame_encoder.md R186, ROUND TRIP: what FE produces for any opcode and payload, fed to an empty FP in any cut,
is exactly one frame with that opcode and payload, emitted when the last byte is consumed. The spec marks R186 as
derived. -/
def Obligations.EncoderParserRoundTrip : Prop :=
  ∀ (op : Opcode) (P : List Byte) (slices : List (List Byte)) (s : State),
    P.length ≤ 2 ^ 64 - 1 → s.blk.fault = false → s.blk.buf = [] →
    slices.flatten = feHdr op P.length ++ P →
    Within slices.flatten.length s.cfg.parserCapacity → (∀ d ∈ slices, Within d.length s.cfg.dataCapacity) →
      (∃ t, offerAll slices s =
          some ([{ fin := true, opcode := op, masked := false, maskKey := none, payload := P }], t) ∧
        t.blk = { s.blk with buf := [] }) ∧
      ∃ u, pushAll (feHdr op P.length ++ P).dropLast s = some ([], u)

/-! ### MX, the masking unit -/

/-- 41_masking.md R130, R131: with a whole key, MX_XOR answers as many bytes as it is given after the key, byte `i` the
XOR of that byte and key byte `i mod 4`, and changes nothing else. -/
def Obligations.MxXorResult : Prop :=
  ∀ s : State, Ready s → 4 ≤ s.operand.length →
    ∃ out, exec .mxXor s = .next (withOutput out s) ∧ out.length = s.operand.length - 4 ∧
      ∀ i, i < out.length → out.getD i 0 = s.operand.getD (4 + i) 0 ^^^ s.operand.getD (i % 4) 0

/-- 41_masking.md R132: masking twice with one key restores every byte sequence. The spec marks R132 as derived. -/
def Obligations.MaskingTwiceRestores : Prop :=
  ∀ P K : List Byte, K.length = 4 → xorMask (xorMask P K) K = P

/-! ### HH, the handshake hasher -/

/-- 42_handshake_hasher.md R161, R156: HH_SHA1 answers the 20-byte digest of its operand and changes nothing else. -/
def Obligations.HhSha1Result : Prop :=
  ∀ s : State, Ready s → s.operand.length ≤ 2 ^ 61 - 1 →
    exec .hhSha1 s = .next (withOutput (sha1 s.operand) s) ∧ (sha1 s.operand).length = 20

/-- 95_test_vectors.md HH-2, HH-3 and L1-1: SHA-1 of "abc" and of nothing, and the token of the source's nonce. -/
def Obligations.HashKnownAnswers : Prop :=
  sha1 (toBigEndian 3 0x616263) = toBigEndian 20 0xa9993e364706816aba3e25717850c26c9cd0d89d ∧
  sha1 [] = toBigEndian 20 0xda39a3ee5e6b4b0d3255bfef95601890afd80709 ∧
  acceptToken (toBigEndian 24 0x6447686c49484e68625842735a5342756232356a5a513d3d) =
    toBigEndian 28 0x733370504c4d426954786151396b59477a7a685a52624b2b784f6f3d

/-- 42_handshake_hasher.md R152: the padded message is the message, 0x80, the fewest zeros that make the length 56
modulo 64, and the bit length in 8 bytes; it fills whole blocks. -/
def Obligations.Sha1PaddingLayout : Prop :=
  ∀ m : List Byte, ∃ z, sha1Pad m = m ++ [0x80] ++ List.replicate z 0 ++ toBigEndian 8 (8 * m.length) ∧
    (m.length + 1 + z) % 64 = 56 ∧ (∀ y, (m.length + 1 + y) % 64 = 56 → z ≤ y) ∧ (sha1Pad m).length % 64 = 0

/-- 42_handshake_hasher.md R154: the schedule of a 64-byte block has 80 words, the block's own 16 and then those of the
recurrence. -/
def Obligations.Sha1ScheduleRecurrence : Prop :=
  ∀ X : List Byte, X.length = 64 →
    (schedule X).length = 80 ∧
    (∀ t, t < 16 → (schedule X).getD t 0 = BitVec.ofNat 32 (bigEndian (slice X (4 * t) 4))) ∧
    (∀ t, 16 ≤ t → t < 80 → (schedule X).getD t 0 =
      rotl 1 ((schedule X).getD (t - 3) 0 ^^^ (schedule X).getD (t - 8) 0 ^^^ (schedule X).getD (t - 14) 0 ^^^
        (schedule X).getD (t - 16) 0))

/-- 42_handshake_hasher.md R155: a block is compressed by the 80 rounds t = 0 to 79 from the hash value, which is then
added word by word; a message's blocks are compressed in order. -/
def Obligations.Sha1Compression : Prop :=
  (∀ (h : Five) (X : List Byte), X.length = 64 →
    sha1Compress h X =
      let v := (List.range 80).foldl (specRound (schedule X)) h
      ⟨h.a + v.a, h.b + v.b, h.c + v.c, h.d + v.d, h.e + v.e⟩) ∧
  (∀ m : List Byte, sha1 m = digestBytes
    (((List.range ((sha1Pad m).length / 64)).map fun j => slice (sha1Pad m) (64 * j) 64).foldl sha1Compress sha1Init))

/-- 42_handshake_hasher.md R158 to R160, R164: HH_ACCEPT answers base64 of SHA-1 of the nonce and then the GUID:
exactly 28 characters of the alphabet, the last of them `=`; the nonce is not validated, and nothing else changes.
The spec marks R158 as derived. -/
def Obligations.HhAcceptResult : Prop :=
  ∀ s : State, Ready s → s.operand.length + 36 ≤ 2 ^ 61 - 1 →
    exec .hhAccept s = .next (withOutput (b64 (sha1 (s.operand ++
      toBigEndian 36 0x32353845414641352d453931342d343744412d393543412d433541423044433835423131))) s) ∧
    (acceptToken s.operand).length = 28 ∧ (acceptToken s.operand).getD 27 0 = 0x3D ∧
    ∀ c ∈ acceptToken s.operand, c = 0x3D ∨ ∃ v, v < 64 ∧ c = b64Char v

/-- 42_handshake_hasher.md R157, R162: HH_B64 answers four characters for each group of three bytes, `=` standing for
those a short last group lacks, in the alphabet A to Z, a to z, 0 to 9, +, /. -/
def Obligations.HhB64Result : Prop :=
  (∀ s : State, Ready s → ∃ out, exec .hhB64 s = .next (withOutput out s) ∧
    out.length = 4 * ((s.operand.length + 2) / 3) ∧
    ∀ j, 3 * j < s.operand.length →
      let v := bigEndian (slice s.operand (3 * j) 3)
      slice out (4 * j) 4 =
        if 3 * j + 3 ≤ s.operand.length then
          [b64Char (v / 2 ^ 18 % 64), b64Char (v / 2 ^ 12 % 64), b64Char (v / 2 ^ 6 % 64), b64Char (v % 64)]
        else if 3 * j + 2 = s.operand.length then
          [b64Char (v * 4 / 2 ^ 12 % 64), b64Char (v * 4 / 2 ^ 6 % 64), b64Char (v * 4 % 64), 0x3D]
        else
          [b64Char (v * 16 / 2 ^ 6 % 64), b64Char (v * 16 % 64), 0x3D, 0x3D]) ∧
  (∀ v, v < 26 → (b64Char v).toNat = 0x41 + v) ∧
  (∀ v, v < 26 → (b64Char (26 + v)).toNat = 0x61 + v) ∧
  (∀ v, v < 10 → (b64Char (52 + v)).toNat = 0x30 + v) ∧
  b64Char 62 = 0x2B ∧ b64Char 63 = 0x2F

/-! ### FE, the frame-header encoder -/

/-- 43_frame_encoder.md R180, R181: FE_HEADER answers the header for the length its 8 operand bytes give: byte 0 is
0x80 + opcode, then the length in the shortest of the three forms; the 10-byte form repeats the operand. -/
def Obligations.FeHeaderResult : Prop :=
  ∀ (s : State) (op : Opcode), Ready s → s.operand.length = 8 →
    exec (.feHeader op) s = .next (withOutput
      (BitVec.ofNat 8 (0x80 + op.toNat) ::
        (if bigEndian s.operand < 126 then [s.operand.getD 7 0]
         else if bigEndian s.operand ≤ 0xFFFF then [0x7E, s.operand.getD 6 0, s.operand.getD 7 0]
         else 0x7F :: s.operand)) s) ∧
    feHdr op (bigEndian s.operand) = specHeader op (bigEndian s.operand)

/-- 43_frame_encoder.md R180, R182, 41_masking.md R134: FE_FRAME answers the header of its operand's length and then the
operand unchanged. -/
def Obligations.FeFrameResult : Prop :=
  ∀ (s : State) (op : Opcode), Ready s → s.operand.length ≤ 2 ^ 64 - 1 →
    exec (.feFrame op) s = .next (withOutput (specHeader op s.operand.length ++ s.operand) s)

/-- 43_frame_encoder.md R183, R185: what FE produces is the unmasked frame with FIN 1, RSV 000 and the whole payload,
in the shortest format: no format that holds the payload makes it shorter. The spec marks R185 as derived. -/
def Obligations.FeOutputIsShortestFormat : Prop :=
  ∀ (op : Opcode) (P : List Byte), P.length ≤ 2 ^ 64 - 1 →
    let f : Frame := { fin := true, opcode := op, masked := false, maskKey := none, payload := P }
    feHdr op P.length ++ P = encodeFrame 0 (shortestForm P.length) f ∧
    ∀ (rsv : BitVec 3) (form : LenForm), form.holds P.length = true →
      (feHdr op P.length ++ P).length ≤ (encodeFrame rsv form f).length

/-! ### Status, faults and reset -/

/-- 10_state.md R30, R31, 44_control.md R190: RD_STATUS with empty data answers CAUSE, and then STAGE in bits 3:1
with FAULT in bit 0, whether or not a fault is pending, where STAGE has a value; it changes nothing else. The spec
marks R30 as derived. -/
def Obligations.RdStatusResult : Prop :=
  ∀ (s : State) (v : BitVec 3), s.operand = [] → (s.blk.fault = false ∨ s.blk.cause ≠ 0x03) →
    stage s.blk.buf = some v →
      exec .rdStatus s = .next (withOutput
        [s.blk.cause, BitVec.ofNat 8 (2 * v.toNat + (if s.blk.fault then 1 else 0))] s)

/-- 10_state.md R31, 60_exceptions.md R242: after CAPACITY, RD_STATUS still answers FAULT 1, CAUSE 0x03 and reserved bits
0; STAGE is any value 0 to 7 (a free value, drawn with the model's own counter: log entry 7). -/
def Obligations.RdStatusAfterCapacity : Prop :=
  ∀ s : State, s.operand = [] → s.blk.fault = true → s.blk.cause = 0x03 →
    ∃ (v d : Nat), v < 8 ∧
      exec .rdStatus s = .next (withOutput [0x03, BitVec.ofNat 8 (2 * v + 1)] { s with draws := d })

/-- 10_state.md R30: the five stages cover every buffer that satisfies R29, and each is read exactly where its case
holds; 5 to 7 never occur. The spec marks R30 as derived. -/
def Obligations.StageCoversGatheredBuffers : Prop :=
  ∀ B : List Byte, NoCompletePrefix B →
    (∃ v, stage B = some v ∧ v.toNat ≤ 4) ∧
    (stage B = some 0 ↔ B.length = 0) ∧
    (stage B = some 1 ↔ B.length = 1) ∧
    (stage B = some 2 ↔ 2 ≤ B.length ∧ B.length < keyOff B) ∧
    (stage B = some 3 ↔ keyOff B ≤ B.length ∧ B.length < hdrLen B) ∧
    (stage B = some 4 ↔ hdrLen B ≤ B.length ∧ B.length < total B)

/-- 60_exceptions.md R240, R241, R243: OPERAND_LENGTH, precise, for every command whose operand passes DATA_CAPACITY, and
for each command's own check. -/
def Obligations.OperandLengthFaults : Prop :=
  ∀ s : State, s.blk.fault = false →
    (∀ i cap, IsCommand i → s.cfg.dataCapacity = some cap → cap < s.operand.length →
      exec i s = .next (withPreciseFault 0x02 s)) ∧
    (s.operand ≠ [] → ∀ b, exec (.fpPush b) s = .next (withPreciseFault 0x02 s)) ∧
    (s.operand ≠ [] → exec .rdStatus s = .next (withPreciseFault 0x02 s)) ∧
    (s.operand.length < 4 → exec .mxXor s = .next (withPreciseFault 0x02 s)) ∧
    (s.operand.length ≠ 8 → ∀ op, exec (.feHeader op) s = .next (withPreciseFault 0x02 s)) ∧
    (2 ^ 64 - 1 < s.operand.length → ∀ op, exec (.feFrame op) s = .next (withPreciseFault 0x02 s))

/-- 60_exceptions.md R242: while a fault is pending, every command but RD_STATUS with empty data answers FAULTED and does
nothing. (Illegal words: `IllegalWordFaults`.) -/
def Obligations.FaultedRefusesCommands : Prop :=
  ∀ (s : State) (i : Instr), s.blk.fault = true → IsCommand i → ¬ (i = .rdStatus ∧ s.operand = []) →
    exec i s = .next (withFaulted s)

/-- 60_exceptions.md R242, R246: no step clears a pending fault or changes its cause, but one that asserts reset; 10_state.md
R31: nor does one change the buffer that ILLEGAL_COMMAND or OPERAND_LENGTH left (after CAPACITY it is any value). That a
handshake does not is DEDUCED from R31 (log entry 24). -/
def Obligations.FaultKeepsFirstCause : Prop :=
  ∀ s t : State, step s = .next t → s.blk.fault = true →
    (t.blk.fault = true ∧ t.blk.cause = s.blk.cause ∧ (s.blk.cause ≠ 0x03 → t.blk.buf = s.blk.buf)) ∨
    (t.blk = { buf := [], fault := false, cause := 0x00 } ∧
      (s.between.head? = some .reset ∨ s.program.head? = some .reset))

/-- 70_reset_and_hazards.md R260, 10_state.md R33: reset empties the buffer and clears the fault and its cause; the
machine's own start is that block, and STATUS then reads 0x0000. The model's choices: that a response and a data operand
stay (log entry 1), that reset may fall before any step, from a list, or be a move of the host's program (log entry 3),
and that the session stays (log entry 5). -/
def Obligations.ResetClearsBlock : Prop :=
  (∀ (s : State) (rest : List Interjection), s.between = .reset :: rest →
    step s = .next { s with between := rest, blk := { buf := [], fault := false, cause := 0x00 } }) ∧
  (∀ (s : State) (rest : List Move), AtProgram s → s.program = .reset :: rest →
    step s = .next { onward s with program := rest, blk := { buf := [], fault := false, cause := 0x00 } }) ∧
  State.reset.blk = { buf := [], fault := false, cause := 0x00 } ∧
  (∀ s : State, s.blk = { buf := [], fault := false, cause := 0x00 } → s.operand = [] →
    exec .rdStatus s = .next (withOutput [0x00, 0x00] s))

/-! ### Invariants and frames -/

/-- Every step keeps the machine's invariant: R29 (no complete prefix), R22 (the capacity), R240 (the causes and the
status codes), R72, R27 (frames), R209 and R215 (the reassembler), R201 and R223 (the session). The spec marks R29
and R215 as derived. -/
def Obligations.StepKeepsSound : Prop :=
  ∀ s t : State, s.Sound → step s = .next t → t.Sound

/-- The machine after reset meets the invariant. -/
def Obligations.ResetIsSound : Prop := State.reset.Sound

/-- 70_reset_and_hazards.md R263: the parameters are fixed; no step changes them. -/
def Obligations.ParametersAreFixed : Prop :=
  ∀ s t : State, step s = .next t → t.cfg = s.cfg

/-- 10_state.md R34, 20_memory.md R58: MX, HH and FE hold no state. A command of theirs that responds OK, or is
refused while faulted, changes nothing but the response. The spec marks R58 as derived. -/
def Obligations.PureUnitsChangeOnlyResponse : Prop :=
  ∀ (s t : State) (i : Instr) (op : Opcode),
    i ∈ [.mxXor, .hhAccept, .hhSha1, .hhB64, .feHeader op, .feFrame op] → exec i s = .next t →
      ∃ r, t.resp = some r ∧ ((r.status = 0x00 ∨ r.status = 0x80) → t = { s with resp := some r })

/-- No command of the block touches what is the host's: the session, the transport, the program, the parameters, the
data operand; it may change the block, the response and the model's own counter. -/
def Obligations.CommandsLeaveHost : Prop :=
  ∀ (s t : State) (i : Instr), IsCommand i → exec i s = .next t →
    t = { s with blk := t.blk, resp := t.resp, draws := t.draws }

/-! ### The wire opcodes: the host's dispatch -/

/-- 47_host_consumer.md R210, R214: CONT with no message in progress is UnexpectedOpcode; with one, its payload is
accumulated, and with FIN the message is complete: text (valid UTF-8 or InvalidTextPayload) or binary. -/
def Obligations.WireContResult : Prop :=
  ∀ (s : State) (fin : Bool) (key : Option (List Byte)) (p : List Byte),
    (s.ses.asm.startOp = none →
      exec (.wireCont fin key p) s = .next (withReadError .unexpectedOpcode s)) ∧
    (∀ o, s.ses.asm.startOp = some o → fin = false →
      exec (.wireCont fin key p) s = .next (withAssembler (s.ses.asm.acc ++ p) (some o) s)) ∧
    (s.ses.asm.startOp = some 0x1 → fin = true →
      exec (.wireCont fin key p) s = .next (finishText (s.ses.asm.acc ++ p) s)) ∧
    (s.ses.asm.startOp = some 0x2 → fin = true →
      exec (.wireCont fin key p) s =
        .next (withMessage (.binary (s.ses.asm.acc ++ p)) (withAssembler [] none s)))

/-- 47_host_consumer.md R210, R211, R214: TEXT while a message is in progress is UnexpectedOpcode; otherwise it starts
one, and with FIN it is a whole message, which must be valid UTF-8. -/
def Obligations.WireTextResult : Prop :=
  ∀ (s : State) (fin : Bool) (key : Option (List Byte)) (p : List Byte),
    (s.ses.asm.startOp ≠ none →
      exec (.wireText fin key p) s = .next (withReadError .unexpectedOpcode s)) ∧
    (s.ses.asm.startOp = none → fin = false →
      exec (.wireText fin key p) s = .next (withAssembler (s.ses.asm.acc ++ p) (some 0x1) s)) ∧
    (s.ses.asm.startOp = none → fin = true →
      exec (.wireText fin key p) s = .next (finishText (s.ses.asm.acc ++ p) s))

/-- 47_host_consumer.md R210, R212, R214: BINARY, likewise; its bytes are not checked. -/
def Obligations.WireBinaryResult : Prop :=
  ∀ (s : State) (fin : Bool) (key : Option (List Byte)) (p : List Byte),
    (s.ses.asm.startOp ≠ none →
      exec (.wireBinary fin key p) s = .next (withReadError .unexpectedOpcode s)) ∧
    (s.ses.asm.startOp = none → fin = false →
      exec (.wireBinary fin key p) s = .next (withAssembler (s.ses.asm.acc ++ p) (some 0x2) s)) ∧
    (s.ses.asm.startOp = none → fin = true →
      exec (.wireBinary fin key p) s =
        .next (withMessage (.binary (s.ses.asm.acc ++ p)) (withAssembler [] none s)))

/-- 47_host_consumer.md R213: the reserved data opcodes 0x3 to 0x7 always fail with UnexpectedOpcode, whatever is in
progress, and leave the reassembler as it is. The spec marks R213 as derived. -/
def Obligations.WireReservedDataResult : Prop :=
  ∀ (s : State) (fin : Bool) (key : Option (List Byte)) (p : List Byte) (i : Instr),
    i ∈ [.wireData3 fin key p, .wireData4 fin key p, .wireData5 fin key p, .wireData6 fin key p,
         .wireData7 fin key p] →
      exec i s = .next (withReadError .unexpectedOpcode s)

/-- 47_host_consumer.md R205: CLOSE delivers Close with the big-endian code of its first two bytes, or without a code
where it has fewer; the session is closed, the cycle returns, and the rest of the chunk is discarded. -/
def Obligations.WireCloseResult : Prop :=
  ∀ (s : State) (fin : Bool) (key : Option (List Byte)) (p : List Byte),
    ∃ code, exec (.wireClose fin key p) s = .next
        { s with ses := { s.ses with
            closed := true, reading := false, rem := [], msgs := [],
            ret := some (.messages (s.ses.msgs ++ [.close code])) } } ∧
      (p.length < 2 → code = none) ∧
      (∀ b0 b1 rest, p = b0 :: b1 :: rest → code = some (b0 ++ b1))

/-- 47_host_consumer.md R206: PING is answered by a pong with the same payload, written before anything else happens,
and nothing is delivered. Where the transport fails before the pong is whole, `read()` returns IoError, with what was
written before. That the connection is down from then on, and that a connection already down fails at once, is the
model's choice (log entry 10). -/
def Obligations.WirePingResult : Prop :=
  ∀ (s : State) (fin : Bool) (key : Option (List Byte)) (p : List Byte),
    Ready { s with operand := p } → p.length ≤ 2 ^ 64 - 1 →
    let pong := specHeader 0xA p.length ++ p
    (Takes s.net pong.length → ∃ plan, plan <:+ s.net.txPlan ∧
      exec (.wirePing fin key p) s = .next (withSent 0xA p plan s)) ∧
    (∀ short plan, WriteFails s.net pong.length short plan →
      exec (.wirePing fin key p) s = .next (withSendFailure 0xA p short plan s))

/-- 47_host_consumer.md R207: PONG and the reserved control opcodes 0xB to 0xF do nothing. -/
def Obligations.WireIgnoredResult : Prop :=
  ∀ (s : State) (fin : Bool) (key : Option (List Byte)) (p : List Byte) (i : Instr),
    i ∈ [.wirePong fin key p, .wireCtrlB fin key p, .wireCtrlC fin key p, .wireCtrlD fin key p,
         .wireCtrlE fin key p, .wireCtrlF fin key p] →
      exec i s = .next s

/-- 60_exceptions.md R247: dispatching a frame changes no fault of the block, unless it is a PING whose pong the block
cannot frame; data frames, CLOSE and ignored frames touch nothing but the session. -/
def Obligations.DispatchLeavesBlock : Prop :=
  ∀ (s t : State) (i : Instr) (f : Frame), i.toFrame = some f → exec i s = .next t →
    (f.opcode ≠ 0x9 → t = { s with ses := t.ses }) ∧
    (f.opcode = 0x9 → Ready { s with operand := f.payload } → f.payload.length ≤ 2 ^ 64 - 1 → t.blk = s.blk)

/-- 47_host_consumer.md R203, R217: control frames (opcode 8 and above) never reach the reassembler. -/
def Obligations.ControlFramesLeaveAssembler : Prop :=
  ∀ (s t : State) (i : Instr) (f : Frame), i.toFrame = some f → 8 ≤ f.opcode.toNat → exec i s = .next t →
    t.ses.asm = s.ses.asm

/-- 47_host_consumer.md R215: from a sound state, no step returns UnsupportedOpcode. The spec marks R215 as derived. -/
def Obligations.UnsupportedOpcodeNeverRaised : Prop :=
  ∀ s t : State, s.Sound → step s = .next t → t.ses.ret = some (.error .unsupportedOpcode) →
    s.ses.ret = some (.error .unsupportedOpcode)

/-- 47_host_consumer.md R214: a message cut into fragments (a first TEXT or BINARY one, then CONT, FIN on the last),
masked or not, is reassembled into exactly one message, the concatenation of the payloads, and nothing is delivered before
the last. A text must be valid UTF-8 as a whole; else the read returns InvalidTextPayload. -/
def Obligations.FragmentsReassemble : Prop :=
  ∀ (s : State) (first : Frame) (middle : List Frame) (last : Frame),
    s.ses.asm = { acc := [], startOp := none } →
    first.opcode = 0x1 ∨ first.opcode = 0x2 → first.fin = false →
    (∀ f ∈ middle, f.opcode = 0x0 ∧ f.fin = false) → last.opcode = 0x0 → last.fin = true →
    let before := first.payload ++ (middle.map Frame.payload).flatten
    let s1 := withAssembler [] none s
    dispatchAll (first :: middle) s = some (withAssembler before (some first.opcode) s) ∧
    (first.opcode = 0x2 →
      dispatchAll (first :: middle ++ [last]) s = some (withMessage (.binary (before ++ last.payload)) s1)) ∧
    (first.opcode = 0x1 → utf8Valid (before ++ last.payload) = true →
      dispatchAll (first :: middle ++ [last]) s = some (withMessage (.text (before ++ last.payload)) s1)) ∧
    (first.opcode = 0x1 → utf8Valid (before ++ last.payload) = false →
      dispatchAll (first :: middle ++ [last]) s = some (withReadError .invalidTextPayload s1))

/-- 47_host_consumer.md R216: `utf8_valid` holds of exactly the sequences of characters of the nine byte patterns. -/
def Obligations.Utf8ValidIsThePatterns : Prop :=
  ∀ s : List Byte, utf8Valid s = true ↔
    ∃ cs : List (List Byte), s = cs.flatten ∧ ∀ c ∈ cs, ∃ p ∈ utf8Patterns, FitsPattern c p

/-! ### The host's calls -/

/-- 47_host_consumer.md R223: once Closed, a session in framed mode stays Closed, whatever happens; there is no
reopening. -/
def Obligations.NoReopening : Prop :=
  ∀ s t : State, step s = .next t → s.ses.framed = true → s.ses.closed = true →
    t.ses.framed = true ∧ t.ses.closed = true

/-- 47_host_consumer.md R223: the host model refuses read, FEED, send and close on a Closed session. -/
def Obligations.ClosedSessionRefuses : Prop :=
  ∀ (s : State) (m : Move) (rest : List Move) (op : Opcode) (d : List Byte) (code : Option (BitVec 16)),
    AtProgram s → s.program = m :: rest → s.ses.framed = true → s.ses.closed = true →
    m ∈ [.read, .feed d, .send op d, .sendText d, .sendBytes d, .close code] →
      step s = .refused .sessionClosed

/-- 47_host_consumer.md R219 to R222: on an open session, send and its public forms issue FE_FRAME and write header and
payload whole, whatever the short writes; where the transport fails first, the call returns IoError. close sets the closed
flag in either case (log entry 9), and a send of opcode 0x8 does not (log entry 22). That the connection is down after a
failure, and that one already down fails at once, is the model's choice (log entry 10). -/
def Obligations.SendWritesWholeFrame : Prop :=
  ∀ (s : State) (m : Move) (rest : List Move) (op : Opcode) (p : List Byte) (closes : Bool),
    AtProgram s → s.program = m :: rest → s.ses.framed = true → s.ses.closed = false →
    Ready { s with operand := p } → p.length ≤ 2 ^ 64 - 1 →
    ((m = .send op p ∧ closes = false) ∨ (m = .sendText p ∧ op = 0x1 ∧ utf8Valid p = true ∧ closes = false) ∨
      (m = .sendBytes p ∧ op = 0x2 ∧ closes = false) ∨
      (m = .close none ∧ op = 0x8 ∧ p = [] ∧ closes = true) ∨
      (∃ c, m = .close (some c) ∧ op = 0x8 ∧ p = toBigEndian 2 c.toNat ∧ closes = true)) →
      let s1 := { onward s with program := rest, ses := { s.ses with closed := closes } }
      let len := (specHeader op p.length ++ p).length
      (Takes s.net len → ∃ plan, plan <:+ s.net.txPlan ∧
        step s = .next { withSent op p plan s1 with ses := { s1.ses with ret := some .done } }) ∧
      (∀ short plan, WriteFails s.net len short plan →
        step s = .next (withSendFailure op p short plan s1))

/-- 47_host_consumer.md R224: after a protocol error the host sends close with PROTOCOL_ERROR_CODE, and the session is
Closed, also where the write fails with IoError (log entries 9, 10). That the close is the host's very next move is the
model's choice (log entry 11). -/
def Obligations.ProtocolErrorIsClosed : Prop :=
  ∀ s : State, Quiet s → s.ses.pending = none → s.ses.mustClose = true →
    let code := toBigEndian 2 s.cfg.protocolErrorCode.toNat
    let s1 := { onward s with ses := { s.ses with closed := true, mustClose := false } }
    Ready { s with operand := code } →
      (Takes s.net 4 → ∃ plan, plan <:+ s.net.txPlan ∧
        step s = .next { withSent 0x8 code plan s1 with ses := { s1.ses with ret := some .done } }) ∧
      (∀ short plan, WriteFails s.net 4 short plan →
        step s = .next (withSendFailure 0x8 code short plan s1))

/-- 47_host_consumer.md R201, R202, 30_encoding.md R84: what `read()` does with the transport's answer. Would-block is an
empty list of messages; a failure is IoError; bytes start a read cycle, and FEED starts one on the bytes it is given. The
spec marks R202 as derived. The model's choices: an answer longer than READ_CHUNK is cut, and its rest kept for the next
read, and with no answer left a read would block (log entry 6); a failure drops the connection, and a read on a dropped
one fails (log entry 10). -/
def Obligations.ReadTakesTransportAnswer : Prop :=
  ∀ (s : State) (rest : List Move), AtProgram s → s.ses.framed = true → s.ses.closed = false →
    let s1 := { onward s with program := rest }
    let failed := { s1.ses with rem := [], msgs := [], ret := some (.error .ioError) }
    let empty := { s1.ses with rem := [], msgs := [], ret := some (.messages []) }
    let cycle := fun chunk => { s1.ses with reading := true, rem := chunk, msgs := [] }
    (s.program = .read :: rest → s.net.down = false →
      (s.net.rx = [] → step s = .next { s1 with ses := empty }) ∧
      (∀ rx, s.net.rx = .wouldBlock :: rx → step s = .next { s1 with net := { s.net with rx := rx }, ses := empty }) ∧
      (∀ rx, s.net.rx = .failure :: rx →
        step s = .next { s1 with net := { s.net with rx := rx, down := true }, ses := failed }) ∧
      (∀ bs rx, s.net.rx = .bytes bs :: rx → bs.length ≤ s.cfg.readChunk →
        step s = .next { s1 with net := { s.net with rx := rx }, ses := cycle bs }) ∧
      (∀ bs rx, s.net.rx = .bytes bs :: rx → s.cfg.readChunk < bs.length →
        step s = .next { s1 with
          net := { s.net with rx := .bytes (bs.drop s.cfg.readChunk) :: rx }
          ses := cycle (bs.take s.cfg.readChunk) })) ∧
    (s.program = .read :: rest → s.net.down = true → step s = .next { s1 with ses := failed }) ∧
    (∀ bs, s.program = .feed bs :: rest → step s = .next { s1 with ses := cycle bs })

/-- 47_host_consumer.md R225, R226: with the key there, the handshake hashes it, sends the 101 response with the token,
and enters framed mode, session Open and everything empty; a failed send is IoError and no framed mode; without the key
it is a fatal precondition failure. On a faulted block HH_ACCEPT gives no token (60_exceptions.md R242), and the buffer
stays as the fault left it (R31, R241). The response builder: `.header` adds a header but rejects Content-Length,
`.payload` sets Content-Length to the body's length in decimal, `.build` gives no body. The model's choices: the missing
key is a fault (log entry 13); `S.buf` is assigned (8), but not while a fault is pending (24); the status of HH_ACCEPT is
not looked at (14); the connection is dropped, and one already down fails the send (10); the first header of a name
answers (18); what rejecting does, where Content-Length stands, and its decimal form (23). -/
def Obligations.HandshakeEntersFramedMode : Prop :=
  (∀ (s : State) (rest : List Move) (req : HttpRequest) (sendOk : Bool),
    AtProgram s → s.program = .handshake req sendOk :: rest → s.ses.framed = false →
    let http := fun token : List Byte => ({
      version := req.version, reason := switchingText, code := 101, body := none
      headers := [(upgradeText, websocketText), (connectionText, upgradeText), (acceptHeaderName, token)] } :
      HttpResponse)
    let entered := fun token => { s.ses with
      framed := true, closed := false, asm := { acc := [], startOp := none }, ret := some .done
      http := some (http token) }
    let failed := fun token => { s.ses with
      reading := false, rem := [], msgs := [], ret := some (.error .ioError), http := some (http token) }
    (getHeader keyHeaderName req = none → step s = .fault .missingWebSocketKey) ∧
    (∀ key, getHeader keyHeaderName req = some key → Ready { s with operand := key } →
      key.length + 36 ≤ 2 ^ 61 - 1 →
      let token := acceptToken key
      let s1 := withOutput token { onward s with program := rest, operand := key }
      (sendOk = true ∧ s.net.down = false →
        step s = .next { s1 with blk := { s.blk with buf := [] }, ses := entered token }) ∧
      (sendOk = false ∨ s.net.down = true →
        step s = .next { s1 with net := { s.net with down := true }, ses := failed token })) ∧
    (∀ key, getHeader keyHeaderName req = some key → s.blk.fault = true →
      let s1 := withFaulted { onward s with program := rest, operand := key }
      (sendOk = true ∧ s.net.down = false →
        ∃ B, (s.blk.cause ≠ 0x03 → B = s.blk.buf) ∧
          step s = .next { s1 with blk := { s.blk with buf := B }, ses := entered [] }) ∧
      (sendOk = false ∨ s.net.down = true →
        step s = .next { s1 with net := { s.net with down := true }, ses := failed [] }))) ∧
  (∀ (b : HttpBuilder) (value : List Byte), b.header contentLengthName value = b) ∧
  (∀ (b : HttpBuilder) (name value : List Byte), name ≠ contentLengthName →
    b.header name value = { b with headers := b.headers ++ [(name, value)] }) ∧
  (∀ (b : HttpBuilder) (body : List Byte), ∃ digits,
    b.payload body =
      { version := b.version, reason := b.reason, code := b.code, body := some body
        headers := b.headers ++ [(contentLengthName, digits)] } ∧
    digits.foldl (fun n c => 10 * n + (c.toNat - 0x30)) 0 = body.length ∧
    (∀ c ∈ digits, 0x30 ≤ c.toNat ∧ c.toNat ≤ 0x39) ∧ (digits.head? = some 0x30 → body = [])) ∧
  (∀ b : HttpBuilder, b.build =
    { version := b.version, reason := b.reason, code := b.code, headers := b.headers, body := none })
end

