-- ==== Sys2Proof/Laws/Bytes.lean ====
section
/-! SUPPORT. Byte order and masking: lengths, the value of `be_n`, and what one masked byte is (00_scope.md R9,
41_masking.md R130). -/

namespace Sys2Proof

@[simp] theorem toBigEndian_length (n v : Nat) : (toBigEndian n v).length = n := by
  induction n with
  | zero => rfl
  | succ n ih => simp [toBigEndian, ih]

theorem foldl_bigEndian (s : List Byte) (a : Nat) :
    s.foldl (fun acc b => acc * 256 + b.toNat) a = a * 256 ^ s.length + bigEndian s := by
  induction s generalizing a with
  | nil => simp [bigEndian]
  | cons b s ih =>
    simp only [List.foldl_cons, bigEndian, List.length_cons]
    rw [ih, ih (0 * 256 + b.toNat), pow_succ]
    ring

@[simp] theorem bigEndian_nil : bigEndian [] = 0 := rfl

theorem bigEndian_cons (b : Byte) (s : List Byte) :
    bigEndian (b :: s) = b.toNat * 256 ^ s.length + bigEndian s := by
  simpa [bigEndian] using foldl_bigEndian s (0 * 256 + b.toNat)

theorem bigEndian_append (s t : List Byte) :
    bigEndian (s ++ t) = bigEndian s * 256 ^ t.length + bigEndian t := by
  rw [bigEndian, List.foldl_append, foldl_bigEndian]
  rfl

theorem bigEndian_lt (s : List Byte) : bigEndian s < 256 ^ s.length := by
  induction s with
  | nil => simp
  | cons b s ih =>
    have hb : b.toNat < 256 := b.isLt
    rw [bigEndian_cons, List.length_cons, pow_succ]
    nlinarith [Nat.one_le_two_pow (n := 0), Nat.pos_of_ne_zero (show 256 ^ s.length ≠ 0 by positivity)]

/-- `BE(be_n(v)) = v mod 256^n` (R9). -/
theorem bigEndian_toBigEndian (n v : Nat) : bigEndian (toBigEndian n v) = v % 256 ^ n := by
  induction n with
  | zero => simp [toBigEndian, Nat.mod_one]
  | succ n ih =>
    have h : v % (256 ^ n * 256) = v % 256 ^ n + 256 ^ n * (v / 256 ^ n % 256) := Nat.mod_mul
    rw [toBigEndian, bigEndian_cons, toBigEndian_length, ih, BitVec.toNat_ofNat, pow_succ 256, h,
      Nat.add_comm, Nat.mul_comm (256 ^ n)]

/-- `be_n(BE(s)) = s` for `n` bytes. -/
theorem toBigEndian_bigEndian (s : List Byte) (v : Nat) (h : v % 256 ^ s.length = bigEndian s) :
    toBigEndian s.length v = s := by
  induction s generalizing v with
  | nil => rfl
  | cons b s ih =>
    have hs := bigEndian_lt s
    have hb : b.toNat < 256 := b.isLt
    rw [bigEndian_cons, List.length_cons, pow_succ, Nat.mod_mul] at h
    have hm : v % 256 ^ s.length < 256 ^ s.length := Nat.mod_lt _ (by positivity)
    have h1 : v % 256 ^ s.length = bigEndian s := by
      have := congrArg (· % 256 ^ s.length) h
      simpa [Nat.add_mul_mod_self_left, Nat.mul_comm, Nat.add_comm, Nat.mod_eq_of_lt hs] using this
    have h2 : v / 256 ^ s.length % 256 = b.toNat := by
      have hp : 0 < 256 ^ s.length := by positivity
      rw [h1] at h
      have h3 : 256 ^ s.length * (v / 256 ^ s.length % 256) = 256 ^ s.length * b.toNat := by
        rw [Nat.mul_comm _ b.toNat]; omega
      exact Nat.eq_of_mul_eq_mul_left hp h3
    rw [List.length_cons, toBigEndian, ih v h1]
    congr 1
    apply BitVec.eq_of_toNat_eq
    simpa using h2

@[simp] theorem xorMaskFrom_length (K : List Byte) (i : Nat) (P : List Byte) :
    (xorMaskFrom K i P).length = P.length := by
  induction P generalizing i with
  | nil => rfl
  | cons p P ih => simp [xorMaskFrom, ih]

@[simp] theorem xorMask_length (P K : List Byte) : (xorMask P K).length = P.length := xorMaskFrom_length K 0 P

theorem xorMaskFrom_get (K : List Byte) (i j : Nat) (P : List Byte) :
    (xorMaskFrom K i P)[j]? = P[j]?.map (· ^^^ K.getD ((i + j) % 4) 0) := by
  induction P generalizing i j with
  | nil => simp [xorMaskFrom]
  | cons p P ih =>
    cases j with
    | zero => simp [xorMaskFrom]
    | succ j => simp [xorMaskFrom, ih, Nat.add_assoc, Nat.add_comm 1 j]

/-- Byte `i` of a masked sequence (R130). -/
theorem xorMask_get (P K : List Byte) (j : Nat) :
    (xorMask P K)[j]? = P[j]?.map (· ^^^ K.getD (j % 4) 0) := by
  simpa [xorMask] using xorMaskFrom_get K 0 j P

@[simp] theorem xorMask_nil (K : List Byte) : xorMask [] K = [] := rfl

end Sys2Proof
end

