-- ==== Sys2Proof/Laws/Wire.lean ====
section
/-! SUPPORT. The wire format: what more bytes leave of a buffer's header fields (10_state.md R23 to R28), that one
frame is never a proper prefix of another (30_encoding.md R79), and that every complete buffer gives a well-formed
frame (R27). -/

namespace Sys2Proof

theorem byteAt_append {B : List Byte} {i : Nat} (h : i < B.length) (C : List Byte) :
    byteAt (B ++ C) i = byteAt B i := by
  simp [byteAt, List.getElem?_append_left h]

theorem slice_append {B : List Byte} {a n : Nat} (h : a + n ≤ B.length) (C : List Byte) :
    slice (B ++ C) a n = slice B a n := by
  unfold slice
  rw [List.drop_append_of_le_length (by omega), List.take_append_of_le_length (by simp; omega)]

theorem slice_length {B : List Byte} {a n : Nat} (h : a + n ≤ B.length) : (slice B a n).length = n := by
  simp [slice]; omega

section
variable {B : List Byte} (C : List Byte)

theorem finOf_append (h : 2 ≤ B.length) : finOf (B ++ C) = finOf B := by
  simp [finOf, byteAt_append (show 0 < B.length by omega)]

theorem opcodeOf_append (h : 2 ≤ B.length) : opcodeOf (B ++ C) = opcodeOf B := by
  simp [opcodeOf, byteAt_append (show 0 < B.length by omega)]

theorem maskOf_append (h : 2 ≤ B.length) : maskOf (B ++ C) = maskOf B := by
  simp [maskOf, byteAt_append (show 1 < B.length by omega)]

theorem len7Of_append (h : 2 ≤ B.length) : len7Of (B ++ C) = len7Of B := by
  simp [len7Of, byteAt_append (show 1 < B.length by omega)]

theorem extN_append (h : 2 ≤ B.length) : extN (B ++ C) = extN B := by
  simp [extN, len7Of_append C h]

theorem keyOff_append (h : 2 ≤ B.length) : keyOff (B ++ C) = keyOff B := by
  simp [keyOff, extN_append C h]

theorem hdrLen_append (h : 2 ≤ B.length) : hdrLen (B ++ C) = hdrLen B := by
  simp [hdrLen, keyOff_append C h, maskOf_append C h]

theorem payloadLen_append (h : keyOff B ≤ B.length) : payloadLen (B ++ C) = payloadLen B := by
  have h2 : 2 ≤ B.length := by unfold keyOff at h; omega
  have hs : slice (B ++ C) 2 (extN B) = slice B 2 (extN B) := slice_append (by unfold keyOff at h; omega) C
  simp [payloadLen, extN_append C h2, len7Of_append C h2, hs]

theorem total_append (h : keyOff B ≤ B.length) : total (B ++ C) = total B := by
  have h2 : 2 ≤ B.length := by unfold keyOff at h; omega
  simp [total, hdrLen_append C h2, payloadLen_append C h]

end

theorem keyOff_ge (B : List Byte) : 2 ≤ keyOff B := by unfold keyOff; omega

theorem hdrLen_ge (B : List Byte) : keyOff B ≤ hdrLen B := by unfold hdrLen; omega

theorem total_ge (B : List Byte) : hdrLen B ≤ total B := by unfold total; omega

theorem complete_iff (B : List Byte) :
    complete B = true ↔ 2 ≤ B.length ∧ keyOff B ≤ B.length ∧ B.length = total B := by
  simp [complete, and_assoc]

/-- A frame is never a proper prefix of another: the count alone ends it (R79). -/
theorem complete_append {B C : List Byte} (hB : complete B = true) (hC : complete (B ++ C) = true) : C = [] := by
  rw [complete_iff] at hB hC
  have h := total_append C hB.2.1
  rw [← List.length_eq_zero_iff]
  have := hC.2.2
  rw [h, List.length_append] at this
  omega

/-- Once a buffer reaches its total, its first `total` bytes are a complete frame. -/
theorem complete_take {B : List Byte} (ht : total B ≤ B.length) :
    complete (B.take (total B)) = true := by
  have hk : keyOff B ≤ total B := le_trans (hdrLen_ge B) (total_ge B)
  have h2 := keyOff_ge B
  have hl : (B.take (total B)).length = total B := by simp; omega
  have hsplit : B = B.take (total B) ++ B.drop (total B) := (List.take_append_drop _ _).symm
  have hko : keyOff (B.take (total B)) = keyOff B := by
    conv_rhs => rw [hsplit]
    rw [keyOff_append _ (by omega)]
  have hto : total (B.take (total B)) = total B := by
    conv_rhs => rw [hsplit]
    rw [total_append _ (by omega)]
  rw [complete_iff, hl, hko, hto]
  omega

theorem extN_le (B : List Byte) : extN B ≤ 8 := by unfold extN; split <;> [omega; (split <;> omega)]

theorem len7Of_lt (B : List Byte) : len7Of B < 128 := by
  unfold len7Of; exact BitVec.isLt _

theorem payloadLen_lt (B : List Byte) : payloadLen B < 2 ^ 64 := by
  unfold payloadLen
  have h7 := len7Of_lt B
  have h8 := extN_le B
  split
  · omega
  · calc bigEndian (slice B 2 (extN B)) < 256 ^ (slice B 2 (extN B)).length := bigEndian_lt _
      _ ≤ 256 ^ 8 := Nat.pow_le_pow_right (by norm_num) (by simp only [slice, List.length_take]; omega)
      _ = 2 ^ 64 := by norm_num

/-- The record of a complete buffer is a frame as R27 describes it. -/
theorem frameOf_wf {B : List Byte} (h : complete B = true) : (frameOf B).wf = true := by
  rw [complete_iff] at h
  obtain ⟨-, hk, ht⟩ := h
  have hp := payloadLen_lt B
  have hh := hdrLen_ge B
  have hlen : (slice B (hdrLen B) (payloadLen B)).length = payloadLen B := slice_length (by unfold total at ht; omega)
  cases hm : maskOf B with
  | false => simp [Frame.wf, frameOf, hm, keyFits, payloadFits, hlen]; omega
  | true =>
    have hkey : (maskKeyOf B).length = 4 := by
      refine slice_length ?_
      have : hdrLen B = keyOff B + 4 := by simp [hdrLen, hm]
      have := total_ge B
      omega
    simp [Frame.wf, frameOf, hm, keyFits, payloadFits, hlen, hkey]; omega

end Sys2Proof
end

