-- ==== Sys2Proof/Laws/Encode.lean ====
section
/-! SUPPORT. What an encoded frame's header says: the fields of 10_state.md R23 to R28 on the bytes `encodeFrame` writes
(30_encoding.md R75 to R78). -/

namespace Sys2Proof

theorem headerByte0_fin (fin : Bool) (rsv : BitVec 3) (op : Opcode) : (headerByte0 fin rsv op).getLsbD 7 = fin := by
  cases fin <;> revert rsv op <;> decide

theorem headerByte0_opcode (fin : Bool) (rsv : BitVec 3) (op : Opcode) :
    (headerByte0 fin rsv op).extractLsb' 0 4 = op := by
  cases fin <;> revert rsv op <;> decide

theorem headerByte1_mask (m : Bool) (n : BitVec 7) : (headerByte1 m n).getLsbD 7 = m := by
  cases m <;> revert n <;> decide

theorem headerByte1_len7 (m : Bool) (n : BitVec 7) : (headerByte1 m n).extractLsb' 0 7 = n := by
  cases m <;> revert n <;> decide

/-- The provisional length a form writes for `L` (R77). -/
def LenForm.len7 : LenForm → Nat → Nat
  | .h2, L => L
  | .h4, _ => 126
  | .h10, _ => 127

/-- The number of extended-length bytes of a form (R77). -/
def LenForm.ext : LenForm → Nat
  | .h2 => 0
  | .h4 => 2
  | .h10 => 8

/-- The extended-length bytes of a form (R77). -/
def LenForm.extBytes : LenForm → Nat → List Byte
  | .h2, _ => []
  | .h4, L => toBigEndian 2 L
  | .h10, L => toBigEndian 8 L

@[simp] theorem LenForm.extBytes_length (form : LenForm) (L : Nat) : (form.extBytes L).length = form.ext := by
  cases form <;> simp [LenForm.extBytes, LenForm.ext]

/-- The key and the payload as they stand on the wire. -/
def Frame.body (f : Frame) : List Byte :=
  match f.maskKey with
  | some k => k ++ xorMask f.payload k
  | none => f.payload

theorem lengthBytes_eq (m : Bool) (form : LenForm) (L : Nat) :
    lengthBytes m form L = headerByte1 m (BitVec.ofNat 7 (form.len7 L)) :: form.extBytes L := by
  cases form <;> rfl

theorem encodeFrame_eq (rsv : BitVec 3) (form : LenForm) (f : Frame) :
    encodeFrame rsv form f = headerByte0 f.fin rsv f.opcode ::
      headerByte1 f.maskKey.isSome (BitVec.ofNat 7 (form.len7 f.payload.length)) ::
      (form.extBytes f.payload.length ++ f.body) := by
  simp only [encodeFrame, lengthBytes_eq, List.cons_append]
  rfl

section
variable {rsv : BitVec 3} {form : LenForm} {f : Frame}

theorem finOf_encodeFrame : finOf (encodeFrame rsv form f) = f.fin := by
  rw [encodeFrame_eq]; exact headerByte0_fin ..

theorem opcodeOf_encodeFrame : opcodeOf (encodeFrame rsv form f) = f.opcode := by
  rw [encodeFrame_eq]; exact headerByte0_opcode ..

theorem maskOf_encodeFrame : maskOf (encodeFrame rsv form f) = f.maskKey.isSome := by
  rw [encodeFrame_eq]; exact headerByte1_mask ..

theorem len7Of_encodeFrame (h : form.holds f.payload.length = true) :
    len7Of (encodeFrame rsv form f) = form.len7 f.payload.length := by
  have hb : byteAt (encodeFrame rsv form f) 1 =
      headerByte1 f.maskKey.isSome (BitVec.ofNat 7 (form.len7 f.payload.length)) := by rw [encodeFrame_eq]; rfl
  rw [len7Of, hb, headerByte1_len7, BitVec.toNat_ofNat]
  cases form <;> simp [LenForm.holds, LenForm.len7] at h ⊢; omega

theorem extN_encodeFrame (h : form.holds f.payload.length = true) : extN (encodeFrame rsv form f) = form.ext := by
  rw [extN, len7Of_encodeFrame h]
  cases form with
  | h2 =>
    have h' : f.payload.length < 126 := by simpa [LenForm.holds] using h
    rw [LenForm.len7, if_neg (by omega), if_neg (by omega)]; rfl
  | h4 => rfl
  | h10 => rfl

theorem keyOff_encodeFrame (h : form.holds f.payload.length = true) :
    keyOff (encodeFrame rsv form f) = 2 + form.ext := by rw [keyOff, extN_encodeFrame h]

theorem hdrLen_encodeFrame (h : form.holds f.payload.length = true) :
    hdrLen (encodeFrame rsv form f) = 2 + form.ext + (if f.maskKey.isSome then 4 else 0) := by
  rw [hdrLen, keyOff_encodeFrame h, maskOf_encodeFrame]

theorem payloadLen_encodeFrame (h : form.holds f.payload.length = true) :
    payloadLen (encodeFrame rsv form f) = f.payload.length := by
  rw [payloadLen, extN_encodeFrame h, len7Of_encodeFrame h, encodeFrame_eq]
  cases form with
  | h2 => simp [LenForm.ext, LenForm.len7]
  | h4 =>
    have h' : f.payload.length < 65536 := by simpa [LenForm.holds] using h
    simp [LenForm.ext, LenForm.extBytes, slice, bigEndian_toBigEndian, Nat.mod_eq_of_lt h']
  | h10 =>
    have h' : f.payload.length < 18446744073709551616 := by simpa [LenForm.holds] using h
    simp [LenForm.ext, LenForm.extBytes, slice, bigEndian_toBigEndian, Nat.mod_eq_of_lt h']

theorem Frame.body_length (hf : f.wf = true) :
    f.body.length = (if f.maskKey.isSome then 4 else 0) + f.payload.length := by
  cases hk : f.maskKey with
  | none => simp [Frame.body, hk]
  | some k =>
    have : k.length = 4 := by simp [Frame.wf, keyFits, hk] at hf; exact hf.1.1
    simp [Frame.body, hk, this]

theorem encodeFrame_length (hf : f.wf = true) :
    (encodeFrame rsv form f).length = 2 + form.ext + (if f.maskKey.isSome then 4 else 0) + f.payload.length := by
  rw [encodeFrame_eq]
  simp only [List.length_cons, List.length_append, LenForm.extBytes_length, Frame.body_length hf]
  omega

/-- An encoded frame is complete. -/
theorem encodeFrame_complete (hf : f.wf = true) (h : form.holds f.payload.length = true) :
    complete (encodeFrame rsv form f) = true := by
  rw [complete_iff, encodeFrame_length hf, keyOff_encodeFrame h, total, hdrLen_encodeFrame h,
    payloadLen_encodeFrame h]
  omega

end

end Sys2Proof
end

