-- ==== Sys2Proof/Laws/State.lean ====
section
/-! SUPPORT. What each update of the state leaves in each field: the record updates of Machine/, once each, so that no
proof unfolds one. -/

namespace Sys2Proof.Machine

/-! ### respond -/

@[simp] theorem respond_cfg (st : BitVec 8) (k : Nat) (f : Option Frame) (out : List Byte) (s : State) : (respond st k f out s).cfg = s.cfg := rfl
@[simp] theorem respond_blk (st : BitVec 8) (k : Nat) (f : Option Frame) (out : List Byte) (s : State) : (respond st k f out s).blk = s.blk := rfl
@[simp] theorem respond_operand (st : BitVec 8) (k : Nat) (f : Option Frame) (out : List Byte) (s : State) : (respond st k f out s).operand = s.operand := rfl
@[simp] theorem respond_resp (st : BitVec 8) (k : Nat) (f : Option Frame) (out : List Byte) (s : State) : (respond st k f out s).resp = some ⟨st, k, f, out⟩ := rfl
@[simp] theorem respond_draws (st : BitVec 8) (k : Nat) (f : Option Frame) (out : List Byte) (s : State) : (respond st k f out s).draws = s.draws := rfl
@[simp] theorem respond_ses (st : BitVec 8) (k : Nat) (f : Option Frame) (out : List Byte) (s : State) : (respond st k f out s).ses = s.ses := rfl
@[simp] theorem respond_net (st : BitVec 8) (k : Nat) (f : Option Frame) (out : List Byte) (s : State) : (respond st k f out s).net = s.net := rfl
@[simp] theorem respond_program (st : BitVec 8) (k : Nat) (f : Option Frame) (out : List Byte) (s : State) : (respond st k f out s).program = s.program := rfl
@[simp] theorem respond_between (st : BitVec 8) (k : Nat) (f : Option Frame) (out : List Byte) (s : State) : (respond st k f out s).between = s.between := rfl

/-! ### respondOut -/

@[simp] theorem respondOut_cfg (out : List Byte) (s : State) : (respondOut out s).cfg = s.cfg := rfl
@[simp] theorem respondOut_blk (out : List Byte) (s : State) : (respondOut out s).blk = s.blk := rfl
@[simp] theorem respondOut_operand (out : List Byte) (s : State) : (respondOut out s).operand = s.operand := rfl
@[simp] theorem respondOut_resp (out : List Byte) (s : State) : (respondOut out s).resp = some ⟨0x00, 0, none, out⟩ := rfl
@[simp] theorem respondOut_draws (out : List Byte) (s : State) : (respondOut out s).draws = s.draws := rfl
@[simp] theorem respondOut_ses (out : List Byte) (s : State) : (respondOut out s).ses = s.ses := rfl
@[simp] theorem respondOut_net (out : List Byte) (s : State) : (respondOut out s).net = s.net := rfl
@[simp] theorem respondOut_program (out : List Byte) (s : State) : (respondOut out s).program = s.program := rfl
@[simp] theorem respondOut_between (out : List Byte) (s : State) : (respondOut out s).between = s.between := rfl

/-! ### refuseFaulted -/

@[simp] theorem refuseFaulted_cfg (s : State) : (refuseFaulted s).cfg = s.cfg := rfl
@[simp] theorem refuseFaulted_blk (s : State) : (refuseFaulted s).blk = s.blk := rfl
@[simp] theorem refuseFaulted_operand (s : State) : (refuseFaulted s).operand = s.operand := rfl
@[simp] theorem refuseFaulted_resp (s : State) : (refuseFaulted s).resp = some ⟨0x80, 0, none, []⟩ := rfl
@[simp] theorem refuseFaulted_draws (s : State) : (refuseFaulted s).draws = s.draws := rfl
@[simp] theorem refuseFaulted_ses (s : State) : (refuseFaulted s).ses = s.ses := rfl
@[simp] theorem refuseFaulted_net (s : State) : (refuseFaulted s).net = s.net := rfl
@[simp] theorem refuseFaulted_program (s : State) : (refuseFaulted s).program = s.program := rfl
@[simp] theorem refuseFaulted_between (s : State) : (refuseFaulted s).between = s.between := rfl

/-! ### raiseFault -/

@[simp] theorem raiseFault_cfg (c : Cause) (s : State) : (raiseFault c s).cfg = s.cfg := rfl
@[simp] theorem raiseFault_blk (c : Cause) (s : State) : (raiseFault c s).blk = ⟨bufferAfterFault c s, true, c.code⟩ := rfl
@[simp] theorem raiseFault_operand (c : Cause) (s : State) : (raiseFault c s).operand = s.operand := rfl
@[simp] theorem raiseFault_resp (c : Cause) (s : State) : (raiseFault c s).resp = some ⟨c.code, 0, none, []⟩ := rfl
@[simp] theorem raiseFault_draws (c : Cause) (s : State) : (raiseFault c s).draws = drawsAfterFault c s := rfl
@[simp] theorem raiseFault_ses (c : Cause) (s : State) : (raiseFault c s).ses = s.ses := rfl
@[simp] theorem raiseFault_net (c : Cause) (s : State) : (raiseFault c s).net = s.net := rfl
@[simp] theorem raiseFault_program (c : Cause) (s : State) : (raiseFault c s).program = s.program := rfl
@[simp] theorem raiseFault_between (c : Cause) (s : State) : (raiseFault c s).between = s.between := rfl

/-! ### fpRespond -/

@[simp] theorem fpRespond_cfg (B : List Byte) (k : Nat) (f : Option Frame) (s : State) : (fpRespond B k f s).cfg = s.cfg := rfl
@[simp] theorem fpRespond_blk (B : List Byte) (k : Nat) (f : Option Frame) (s : State) : (fpRespond B k f s).blk = ⟨B, s.blk.fault, s.blk.cause⟩ := rfl
@[simp] theorem fpRespond_operand (B : List Byte) (k : Nat) (f : Option Frame) (s : State) : (fpRespond B k f s).operand = s.operand := rfl
@[simp] theorem fpRespond_resp (B : List Byte) (k : Nat) (f : Option Frame) (s : State) : (fpRespond B k f s).resp = some ⟨0x00, k, f, []⟩ := rfl
@[simp] theorem fpRespond_draws (B : List Byte) (k : Nat) (f : Option Frame) (s : State) : (fpRespond B k f s).draws = s.draws := rfl
@[simp] theorem fpRespond_ses (B : List Byte) (k : Nat) (f : Option Frame) (s : State) : (fpRespond B k f s).ses = s.ses := rfl
@[simp] theorem fpRespond_net (B : List Byte) (k : Nat) (f : Option Frame) (s : State) : (fpRespond B k f s).net = s.net := rfl
@[simp] theorem fpRespond_program (B : List Byte) (k : Nat) (f : Option Frame) (s : State) : (fpRespond B k f s).program = s.program := rfl
@[simp] theorem fpRespond_between (B : List Byte) (k : Nat) (f : Option Frame) (s : State) : (fpRespond B k f s).between = s.between := rfl

/-! ### assertReset -/

@[simp] theorem assertReset_cfg (s : State) : (assertReset s).cfg = s.cfg := rfl
@[simp] theorem assertReset_blk (s : State) : (assertReset s).blk = ⟨[], false, 0x00⟩ := rfl
@[simp] theorem assertReset_operand (s : State) : (assertReset s).operand = s.operand := rfl
@[simp] theorem assertReset_resp (s : State) : (assertReset s).resp = s.resp := rfl
@[simp] theorem assertReset_draws (s : State) : (assertReset s).draws = s.draws := rfl
@[simp] theorem assertReset_ses (s : State) : (assertReset s).ses = s.ses := rfl
@[simp] theorem assertReset_net (s : State) : (assertReset s).net = s.net := rfl
@[simp] theorem assertReset_program (s : State) : (assertReset s).program = s.program := rfl
@[simp] theorem assertReset_between (s : State) : (assertReset s).between = s.between := rfl

/-! ### endRead -/

@[simp] theorem endRead_cfg (r : CallResult) (s : State) : (endRead r s).cfg = s.cfg := rfl
@[simp] theorem endRead_blk (r : CallResult) (s : State) : (endRead r s).blk = s.blk := rfl
@[simp] theorem endRead_operand (r : CallResult) (s : State) : (endRead r s).operand = s.operand := rfl
@[simp] theorem endRead_resp (r : CallResult) (s : State) : (endRead r s).resp = s.resp := rfl
@[simp] theorem endRead_draws (r : CallResult) (s : State) : (endRead r s).draws = s.draws := rfl
@[simp] theorem endRead_net (r : CallResult) (s : State) : (endRead r s).net = s.net := rfl
@[simp] theorem endRead_program (r : CallResult) (s : State) : (endRead r s).program = s.program := rfl
@[simp] theorem endRead_between (r : CallResult) (s : State) : (endRead r s).between = s.between := rfl
@[simp] theorem endRead_ses_framed (r : CallResult) (s : State) : (endRead r s).ses.framed = s.ses.framed := rfl
@[simp] theorem endRead_ses_closed (r : CallResult) (s : State) : (endRead r s).ses.closed = s.ses.closed := rfl
@[simp] theorem endRead_ses_asm (r : CallResult) (s : State) : (endRead r s).ses.asm = s.ses.asm := rfl
@[simp] theorem endRead_ses_reading (r : CallResult) (s : State) : (endRead r s).ses.reading = false := rfl
@[simp] theorem endRead_ses_rem (r : CallResult) (s : State) : (endRead r s).ses.rem = [] := rfl
@[simp] theorem endRead_ses_msgs (r : CallResult) (s : State) : (endRead r s).ses.msgs = [] := rfl
@[simp] theorem endRead_ses_pending (r : CallResult) (s : State) : (endRead r s).ses.pending = s.ses.pending := rfl
@[simp] theorem endRead_ses_mustClose (r : CallResult) (s : State) : (endRead r s).ses.mustClose = s.ses.mustClose := rfl
@[simp] theorem endRead_ses_ret (r : CallResult) (s : State) : (endRead r s).ses.ret = some r := rfl
@[simp] theorem endRead_ses_http (r : CallResult) (s : State) : (endRead r s).ses.http = s.ses.http := rfl

/-! ### deliver -/

@[simp] theorem deliver_cfg (m : Message) (s : State) : (deliver m s).cfg = s.cfg := rfl
@[simp] theorem deliver_blk (m : Message) (s : State) : (deliver m s).blk = s.blk := rfl
@[simp] theorem deliver_operand (m : Message) (s : State) : (deliver m s).operand = s.operand := rfl
@[simp] theorem deliver_resp (m : Message) (s : State) : (deliver m s).resp = s.resp := rfl
@[simp] theorem deliver_draws (m : Message) (s : State) : (deliver m s).draws = s.draws := rfl
@[simp] theorem deliver_net (m : Message) (s : State) : (deliver m s).net = s.net := rfl
@[simp] theorem deliver_program (m : Message) (s : State) : (deliver m s).program = s.program := rfl
@[simp] theorem deliver_between (m : Message) (s : State) : (deliver m s).between = s.between := rfl
@[simp] theorem deliver_ses_framed (m : Message) (s : State) : (deliver m s).ses.framed = s.ses.framed := rfl
@[simp] theorem deliver_ses_closed (m : Message) (s : State) : (deliver m s).ses.closed = s.ses.closed := rfl
@[simp] theorem deliver_ses_asm (m : Message) (s : State) : (deliver m s).ses.asm = s.ses.asm := rfl
@[simp] theorem deliver_ses_reading (m : Message) (s : State) : (deliver m s).ses.reading = s.ses.reading := rfl
@[simp] theorem deliver_ses_rem (m : Message) (s : State) : (deliver m s).ses.rem = s.ses.rem := rfl
@[simp] theorem deliver_ses_msgs (m : Message) (s : State) : (deliver m s).ses.msgs = s.ses.msgs ++ [m] := rfl
@[simp] theorem deliver_ses_pending (m : Message) (s : State) : (deliver m s).ses.pending = s.ses.pending := rfl
@[simp] theorem deliver_ses_mustClose (m : Message) (s : State) : (deliver m s).ses.mustClose = s.ses.mustClose := rfl
@[simp] theorem deliver_ses_ret (m : Message) (s : State) : (deliver m s).ses.ret = s.ses.ret := rfl
@[simp] theorem deliver_ses_http (m : Message) (s : State) : (deliver m s).ses.http = s.ses.http := rfl

/-! ### protocolError -/

@[simp] theorem protocolError_cfg (e : HostError) (s : State) : (protocolError e s).cfg = s.cfg := rfl
@[simp] theorem protocolError_blk (e : HostError) (s : State) : (protocolError e s).blk = s.blk := rfl
@[simp] theorem protocolError_operand (e : HostError) (s : State) : (protocolError e s).operand = s.operand := rfl
@[simp] theorem protocolError_resp (e : HostError) (s : State) : (protocolError e s).resp = s.resp := rfl
@[simp] theorem protocolError_draws (e : HostError) (s : State) : (protocolError e s).draws = s.draws := rfl
@[simp] theorem protocolError_net (e : HostError) (s : State) : (protocolError e s).net = s.net := rfl
@[simp] theorem protocolError_program (e : HostError) (s : State) : (protocolError e s).program = s.program := rfl
@[simp] theorem protocolError_between (e : HostError) (s : State) : (protocolError e s).between = s.between := rfl
@[simp] theorem protocolError_ses_framed (e : HostError) (s : State) : (protocolError e s).ses.framed = s.ses.framed := rfl
@[simp] theorem protocolError_ses_closed (e : HostError) (s : State) : (protocolError e s).ses.closed = s.ses.closed := rfl
@[simp] theorem protocolError_ses_asm (e : HostError) (s : State) : (protocolError e s).ses.asm = s.ses.asm := rfl
@[simp] theorem protocolError_ses_reading (e : HostError) (s : State) : (protocolError e s).ses.reading = false := rfl
@[simp] theorem protocolError_ses_rem (e : HostError) (s : State) : (protocolError e s).ses.rem = [] := rfl
@[simp] theorem protocolError_ses_msgs (e : HostError) (s : State) : (protocolError e s).ses.msgs = [] := rfl
@[simp] theorem protocolError_ses_pending (e : HostError) (s : State) : (protocolError e s).ses.pending = s.ses.pending := rfl
@[simp] theorem protocolError_ses_mustClose (e : HostError) (s : State) : (protocolError e s).ses.mustClose = true := rfl
@[simp] theorem protocolError_ses_ret (e : HostError) (s : State) : (protocolError e s).ses.ret = some (.error e) := rfl
@[simp] theorem protocolError_ses_http (e : HostError) (s : State) : (protocolError e s).ses.http = s.ses.http := rfl

/-! ### startCycle -/

@[simp] theorem startCycle_cfg (d : List Byte) (s : State) : (startCycle d s).cfg = s.cfg := rfl
@[simp] theorem startCycle_blk (d : List Byte) (s : State) : (startCycle d s).blk = s.blk := rfl
@[simp] theorem startCycle_operand (d : List Byte) (s : State) : (startCycle d s).operand = s.operand := rfl
@[simp] theorem startCycle_resp (d : List Byte) (s : State) : (startCycle d s).resp = s.resp := rfl
@[simp] theorem startCycle_draws (d : List Byte) (s : State) : (startCycle d s).draws = s.draws := rfl
@[simp] theorem startCycle_net (d : List Byte) (s : State) : (startCycle d s).net = s.net := rfl
@[simp] theorem startCycle_program (d : List Byte) (s : State) : (startCycle d s).program = s.program := rfl
@[simp] theorem startCycle_between (d : List Byte) (s : State) : (startCycle d s).between = s.between := rfl
@[simp] theorem startCycle_ses_framed (d : List Byte) (s : State) : (startCycle d s).ses.framed = s.ses.framed := rfl
@[simp] theorem startCycle_ses_closed (d : List Byte) (s : State) : (startCycle d s).ses.closed = s.ses.closed := rfl
@[simp] theorem startCycle_ses_asm (d : List Byte) (s : State) : (startCycle d s).ses.asm = s.ses.asm := rfl
@[simp] theorem startCycle_ses_reading (d : List Byte) (s : State) : (startCycle d s).ses.reading = true := rfl
@[simp] theorem startCycle_ses_rem (d : List Byte) (s : State) : (startCycle d s).ses.rem = d := rfl
@[simp] theorem startCycle_ses_msgs (d : List Byte) (s : State) : (startCycle d s).ses.msgs = [] := rfl
@[simp] theorem startCycle_ses_pending (d : List Byte) (s : State) : (startCycle d s).ses.pending = s.ses.pending := rfl
@[simp] theorem startCycle_ses_mustClose (d : List Byte) (s : State) : (startCycle d s).ses.mustClose = s.ses.mustClose := rfl
@[simp] theorem startCycle_ses_ret (d : List Byte) (s : State) : (startCycle d s).ses.ret = s.ses.ret := rfl
@[simp] theorem startCycle_ses_http (d : List Byte) (s : State) : (startCycle d s).ses.http = s.ses.http := rfl

/-! ### returnDone -/

@[simp] theorem returnDone_cfg (s : State) : (returnDone s).cfg = s.cfg := rfl
@[simp] theorem returnDone_blk (s : State) : (returnDone s).blk = s.blk := rfl
@[simp] theorem returnDone_operand (s : State) : (returnDone s).operand = s.operand := rfl
@[simp] theorem returnDone_resp (s : State) : (returnDone s).resp = s.resp := rfl
@[simp] theorem returnDone_draws (s : State) : (returnDone s).draws = s.draws := rfl
@[simp] theorem returnDone_net (s : State) : (returnDone s).net = s.net := rfl
@[simp] theorem returnDone_program (s : State) : (returnDone s).program = s.program := rfl
@[simp] theorem returnDone_between (s : State) : (returnDone s).between = s.between := rfl
@[simp] theorem returnDone_ses_framed (s : State) : (returnDone s).ses.framed = s.ses.framed := rfl
@[simp] theorem returnDone_ses_closed (s : State) : (returnDone s).ses.closed = s.ses.closed := rfl
@[simp] theorem returnDone_ses_asm (s : State) : (returnDone s).ses.asm = s.ses.asm := rfl
@[simp] theorem returnDone_ses_reading (s : State) : (returnDone s).ses.reading = s.ses.reading := rfl
@[simp] theorem returnDone_ses_rem (s : State) : (returnDone s).ses.rem = s.ses.rem := rfl
@[simp] theorem returnDone_ses_msgs (s : State) : (returnDone s).ses.msgs = s.ses.msgs := rfl
@[simp] theorem returnDone_ses_pending (s : State) : (returnDone s).ses.pending = s.ses.pending := rfl
@[simp] theorem returnDone_ses_mustClose (s : State) : (returnDone s).ses.mustClose = s.ses.mustClose := rfl
@[simp] theorem returnDone_ses_ret (s : State) : (returnDone s).ses.ret = some .done := rfl
@[simp] theorem returnDone_ses_http (s : State) : (returnDone s).ses.http = s.ses.http := rfl

/-! ### absorb -/

@[simp] theorem absorb_cfg (s : State) : (absorb s).cfg = s.cfg := rfl
@[simp] theorem absorb_blk (s : State) : (absorb s).blk = s.blk := rfl
@[simp] theorem absorb_operand (s : State) : (absorb s).operand = s.operand := rfl
@[simp] theorem absorb_resp (s : State) : (absorb s).resp = s.resp := rfl
@[simp] theorem absorb_draws (s : State) : (absorb s).draws = s.draws := rfl
@[simp] theorem absorb_net (s : State) : (absorb s).net = s.net := rfl
@[simp] theorem absorb_program (s : State) : (absorb s).program = s.program := rfl
@[simp] theorem absorb_between (s : State) : (absorb s).between = s.between := rfl
@[simp] theorem absorb_ses_framed (s : State) : (absorb s).ses.framed = s.ses.framed := rfl
@[simp] theorem absorb_ses_closed (s : State) : (absorb s).ses.closed = s.ses.closed := rfl
@[simp] theorem absorb_ses_asm (s : State) : (absorb s).ses.asm = s.ses.asm := rfl
@[simp] theorem absorb_ses_reading (s : State) : (absorb s).ses.reading = s.ses.reading := rfl
@[simp] theorem absorb_ses_rem (s : State) : (absorb s).ses.rem = s.ses.rem.drop (takenFrom s.resp).1 := rfl
@[simp] theorem absorb_ses_msgs (s : State) : (absorb s).ses.msgs = s.ses.msgs := rfl
@[simp] theorem absorb_ses_pending (s : State) : (absorb s).ses.pending = (takenFrom s.resp).2 := rfl
@[simp] theorem absorb_ses_mustClose (s : State) : (absorb s).ses.mustClose = s.ses.mustClose := rfl
@[simp] theorem absorb_ses_ret (s : State) : (absorb s).ses.ret = s.ses.ret := rfl
@[simp] theorem absorb_ses_http (s : State) : (absorb s).ses.http = s.ses.http := rfl

/-! ### onward -/

@[simp] theorem onward_cfg (s : State) : (onward s).cfg = s.cfg := rfl
@[simp] theorem onward_blk (s : State) : (onward s).blk = s.blk := rfl
@[simp] theorem onward_operand (s : State) : (onward s).operand = s.operand := rfl
@[simp] theorem onward_resp (s : State) : (onward s).resp = s.resp := rfl
@[simp] theorem onward_draws (s : State) : (onward s).draws = s.draws := rfl
@[simp] theorem onward_ses (s : State) : (onward s).ses = s.ses := rfl
@[simp] theorem onward_net (s : State) : (onward s).net = s.net := rfl
@[simp] theorem onward_program (s : State) : (onward s).program = s.program := rfl
@[simp] theorem onward_between (s : State) : (onward s).between = s.between.tail := rfl

/-! ### sendResponse -/

@[simp] theorem sendResponse_cfg (r : HttpResponse) (ok : Bool) (s : State) : (sendResponse r ok s).1.cfg = s.cfg := rfl
@[simp] theorem sendResponse_blk (r : HttpResponse) (ok : Bool) (s : State) : (sendResponse r ok s).1.blk = s.blk := rfl
@[simp] theorem sendResponse_operand (r : HttpResponse) (ok : Bool) (s : State) : (sendResponse r ok s).1.operand = s.operand := rfl
@[simp] theorem sendResponse_resp (r : HttpResponse) (ok : Bool) (s : State) : (sendResponse r ok s).1.resp = s.resp := rfl
@[simp] theorem sendResponse_draws (r : HttpResponse) (ok : Bool) (s : State) : (sendResponse r ok s).1.draws = s.draws := rfl
@[simp] theorem sendResponse_net (r : HttpResponse) (ok : Bool) (s : State) : (sendResponse r ok s).1.net = s.net := rfl
@[simp] theorem sendResponse_program (r : HttpResponse) (ok : Bool) (s : State) : (sendResponse r ok s).1.program = s.program := rfl
@[simp] theorem sendResponse_between (r : HttpResponse) (ok : Bool) (s : State) : (sendResponse r ok s).1.between = s.between := rfl
@[simp] theorem sendResponse_ses_framed (r : HttpResponse) (ok : Bool) (s : State) : (sendResponse r ok s).1.ses.framed = s.ses.framed := rfl
@[simp] theorem sendResponse_ses_closed (r : HttpResponse) (ok : Bool) (s : State) : (sendResponse r ok s).1.ses.closed = s.ses.closed := rfl
@[simp] theorem sendResponse_ses_asm (r : HttpResponse) (ok : Bool) (s : State) : (sendResponse r ok s).1.ses.asm = s.ses.asm := rfl
@[simp] theorem sendResponse_ses_reading (r : HttpResponse) (ok : Bool) (s : State) : (sendResponse r ok s).1.ses.reading = s.ses.reading := rfl
@[simp] theorem sendResponse_ses_rem (r : HttpResponse) (ok : Bool) (s : State) : (sendResponse r ok s).1.ses.rem = s.ses.rem := rfl
@[simp] theorem sendResponse_ses_msgs (r : HttpResponse) (ok : Bool) (s : State) : (sendResponse r ok s).1.ses.msgs = s.ses.msgs := rfl
@[simp] theorem sendResponse_ses_pending (r : HttpResponse) (ok : Bool) (s : State) : (sendResponse r ok s).1.ses.pending = s.ses.pending := rfl
@[simp] theorem sendResponse_ses_mustClose (r : HttpResponse) (ok : Bool) (s : State) : (sendResponse r ok s).1.ses.mustClose = s.ses.mustClose := rfl
@[simp] theorem sendResponse_ses_ret (r : HttpResponse) (ok : Bool) (s : State) : (sendResponse r ok s).1.ses.ret = s.ses.ret := rfl
@[simp] theorem sendResponse_ses_http (r : HttpResponse) (ok : Bool) (s : State) : (sendResponse r ok s).1.ses.http = some r := rfl
@[simp] theorem sendResponse_ok (r : HttpResponse) (ok : Bool) (s : State) : (sendResponse r ok s).2 = (ok && !s.net.down) := rfl

/-! ### enterFramed -/

@[simp] theorem enterFramed_cfg (s : State) : (enterFramed s).cfg = s.cfg := rfl
@[simp] theorem enterFramed_operand (s : State) : (enterFramed s).operand = s.operand := rfl
@[simp] theorem enterFramed_resp (s : State) : (enterFramed s).resp = s.resp := rfl
@[simp] theorem enterFramed_draws (s : State) : (enterFramed s).draws = s.draws := rfl
@[simp] theorem enterFramed_net (s : State) : (enterFramed s).net = s.net := rfl
@[simp] theorem enterFramed_program (s : State) : (enterFramed s).program = s.program := rfl
@[simp] theorem enterFramed_between (s : State) : (enterFramed s).between = s.between := rfl
@[simp] theorem enterFramed_blk (s : State) : (enterFramed s).blk = ⟨bufferEnteringFramed s.blk, s.blk.fault, s.blk.cause⟩ := rfl
@[simp] theorem enterFramed_ses_framed (s : State) : (enterFramed s).ses.framed = true := rfl
@[simp] theorem enterFramed_ses_closed (s : State) : (enterFramed s).ses.closed = false := rfl
@[simp] theorem enterFramed_ses_asm (s : State) : (enterFramed s).ses.asm = Assembler.reset := rfl
@[simp] theorem enterFramed_ses_reading (s : State) : (enterFramed s).ses.reading = s.ses.reading := rfl
@[simp] theorem enterFramed_ses_rem (s : State) : (enterFramed s).ses.rem = s.ses.rem := rfl
@[simp] theorem enterFramed_ses_msgs (s : State) : (enterFramed s).ses.msgs = s.ses.msgs := rfl
@[simp] theorem enterFramed_ses_pending (s : State) : (enterFramed s).ses.pending = s.ses.pending := rfl
@[simp] theorem enterFramed_ses_mustClose (s : State) : (enterFramed s).ses.mustClose = s.ses.mustClose := rfl
@[simp] theorem enterFramed_ses_ret (s : State) : (enterFramed s).ses.ret = s.ses.ret := rfl
@[simp] theorem enterFramed_ses_http (s : State) : (enterFramed s).ses.http = s.ses.http := rfl

end Sys2Proof.Machine
end

