-- ==== Sys2Proof/Laws/Parser.lean ====
section
/-! SUPPORT. FP: what the byte step and FP_APPEND's loop can do (40_frame_parser.md R100 to R103), said once. -/

namespace Sys2Proof.Machine

theorem fpStep_complete {B : List Byte} {b : Byte} (h : complete (B ++ [b]) = true) :
    fpStep B b = ([], some (frameOf (B ++ [b]))) := by simp [fpStep, h]

theorem fpStep_gather {B : List Byte} {b : Byte} (h : complete (B ++ [b]) = false) :
    fpStep B b = (B ++ [b], none) := by simp [fpStep, h]

@[simp] theorem noCompletePrefix_nil : NoCompletePrefix [] := by
  intro n hn hl; simp at hl; omega

theorem NoCompletePrefix.snoc {B : List Byte} {b : Byte} (h : NoCompletePrefix B)
    (hb : complete (B ++ [b]) = false) : NoCompletePrefix (B ++ [b]) := by
  intro n hn hl
  rw [List.length_append, List.length_singleton] at hl
  rcases Nat.lt_or_ge B.length n with hlt | hle
  · have : n = (B ++ [b]).length := by simp; omega
    rw [this, List.take_length]; exact hb
  · rw [List.take_append_of_le_length hle]; exact h n hn hle

/-- The byte step keeps R29. -/
theorem NoCompletePrefix.fpStep {B : List Byte} (h : NoCompletePrefix B) (b : Byte) :
    NoCompletePrefix (fpStep B b).1 := by
  cases hc : complete (B ++ [b]) with
  | true => simp [fpStep_complete hc]
  | false => simpa [fpStep_gather hc] using h.snoc hc

theorem fpStep_length_le (B : List Byte) (b : Byte) : (fpStep B b).1.length ≤ B.length + 1 := by
  cases hc : complete (B ++ [b]) with
  | true => simp [fpStep_complete hc]
  | false => simp [fpStep_gather hc]

/-- A frame the byte step emits is as R27 says. -/
theorem fpStep_frame_wf {B : List Byte} {b : Byte} {f : Frame} (h : (fpStep B b).2 = some f) : f.wf = true := by
  cases hc : complete (B ++ [b]) with
  | true =>
    simp only [fpStep_complete hc, Option.some.injEq] at h
    exact h ▸ frameOf_wf hc
  | false => simp [fpStep_gather hc] at h

/-- The loop where no offered byte completes a frame and the capacity lasts: everything is taken (R103). -/
theorem appendLoop_none {cap : Option Nat} {B : List Byte} {k : Nat} {d : List Byte}
    (hc : Within (B.length + d.length) cap)
    (hn : ∀ j, 0 < j → j ≤ d.length → complete (B ++ d.take j) = false) :
    appendLoop cap B k d = .taken (B ++ d) (k + d.length) none := by
  induction d generalizing B k with
  | nil => simp [appendLoop]
  | cons b d ih =>
    have hfull : bufferFull cap B = false := by
      cases cap with
      | none => rfl
      | some n => have := hc n rfl; simp [bufferFull, exceeds] at this ⊢; omega
    have h1 : complete (B ++ [b]) = false := by simpa using hn 1 (by omega) (by simp)
    have := ih (B := B ++ [b]) (k := k + 1) (by simpa [Nat.add_assoc, Nat.add_comm 1] using hc)
      (fun j hj hl => by simpa using hn (j + 1) (by omega) (by simp; omega))
    simp [appendLoop, hfull, fpStep_gather h1, this, Nat.add_assoc, Nat.add_comm 1]

/-- The loop where the first frame to complete ends with offered byte `j`: it stops there (R103). -/
theorem appendLoop_some {cap : Option Nat} {B : List Byte} {k : Nat} {d : List Byte} {j : Nat}
    (hc : Within (B.length + j) cap) (hj : 0 < j) (hl : j ≤ d.length)
    (hf : complete (B ++ d.take j) = true)
    (hn : ∀ i, 0 < i → i < j → complete (B ++ d.take i) = false) :
    appendLoop cap B k d = .taken [] (k + j) (some (frameOf (B ++ d.take j))) := by
  induction d generalizing B k j with
  | nil => simp at hl; omega
  | cons b d ih =>
    have hfull : bufferFull cap B = false := by
      cases cap with
      | none => rfl
      | some n => have := hc n rfl; simp [bufferFull, exceeds]; omega
    rcases Nat.lt_or_ge 1 j with h1 | h1
    · have hb : complete (B ++ [b]) = false := by simpa using hn 1 (by omega) h1
      obtain ⟨i, rfl⟩ : ∃ i, j = i + 1 := ⟨j - 1, by omega⟩
      have := ih (B := B ++ [b]) (k := k + 1) (j := i)
        (by intro n hn'; have := hc n hn'; simp; omega) (by omega) (by simp at hl; omega)
        (by simpa using hf) (fun m hm hlt => by simpa using hn (m + 1) (by omega) (by omega))
      simp [appendLoop, hfull, fpStep_gather hb, this, Nat.add_assoc, Nat.add_comm 1]
    · obtain rfl : j = 1 := by omega
      have hb : complete (B ++ [b]) = true := by simpa using hf
      simp [appendLoop, hfull, fpStep_complete hb]

/-- Everything FP_APPEND's loop can do, whatever the buffer and the data: it passes the capacity; or it takes bytes,
keeps R29 and the bound, and any frame is as R27 says. -/
theorem appendLoop_cases {cap : Option Nat} {B : List Byte} {k : Nat} {d : List Byte}
    (hB : NoCompletePrefix B) (hc : Within B.length cap) :
    appendLoop cap B k d = .overCapacity ∨
    ∃ B' n f, appendLoop cap B k d = .taken B' n f ∧ NoCompletePrefix B' ∧ Within B'.length cap ∧
      k ≤ n ∧ n ≤ k + d.length ∧ ∀ F, f = some F → F.wf = true := by
  induction d generalizing B k with
  | nil => exact .inr ⟨B, k, none, rfl, hB, hc, le_rfl, by simp, by simp⟩
  | cons b d ih =>
    cases hfull : bufferFull cap B with
    | true => exact .inl (by simp [appendLoop, hfull])
    | false =>
      have hcap : Within (B.length + 1) cap := by
        intro n hn; subst hn; simp [bufferFull, exceeds] at hfull; omega
      have hwf := @fpStep_frame_wf B b
      have hnc := hB.fpStep b
      have hlen := fpStep_length_le B b
      cases hs : fpStep B b with
      | mk B' fo =>
        rw [hs] at hwf hnc hlen
        have hcap' : Within B'.length cap := fun n hn => le_trans hlen (hcap n hn)
        cases fo with
        | some F =>
          exact .inr ⟨B', k + 1, some F, by simp [appendLoop, hfull, hs], hnc, hcap', by omega, by simp,
            fun G hG => hwf hG⟩
        | none =>
          rcases ih (B := B') (k := k + 1) hnc hcap' with h | ⟨B'', n, f, h, h1, h2, h3, h4, h5⟩
          · exact .inl (by simp [appendLoop, hfull, hs, h])
          · exact .inr ⟨B'', n, f, by simp [appendLoop, hfull, hs, h], h1, h2, by omega,
              by simp only [List.length_cons]; omega, h5⟩

end Sys2Proof.Machine
end

