-- ==== Sys2Proof/Laws/Ops.lean ====
section
/-! SUPPORT. The shared operations of the commands: what the checks of 60_exceptions.md R243 let through, and everything
a command can do to the state, said once. -/

namespace Sys2Proof.Machine

theorem exceeds_eq_false {n : Nat} {bound : Option Nat} : exceeds n bound = false ↔ Within n bound := by
  cases bound <;> simp [exceeds, Within]

theorem ready_iff {s : State} : Ready s ↔ s.blk.fault = false ∧ operandTooLong s = false := by
  simp [Ready, operandTooLong, exceeds_eq_false]

section
variable {bad : List Byte → Bool} {p : State → State} {s : State}

/-- Check 1 of R243. -/
theorem checked_faulted (h : s.blk.fault = true) : checked bad p s = refuseFaulted s := by simp [checked, h]

/-- Check 3 of R243. -/
theorem checked_tooLong (h : s.blk.fault = false) (hl : operandTooLong s = true) :
    checked bad p s = raiseFault .operandLength s := by simp [checked, h, hl]

/-- Check 4 of R243. -/
theorem checked_badLength (h : s.blk.fault = false) (hb : bad s.operand = true) :
    checked bad p s = raiseFault .operandLength s := by
  simp only [checked, h, hb, Bool.false_eq_true, if_false, if_true]
  split <;> rfl

/-- All checks passed. -/
theorem checked_ready (h : Ready s) (hb : bad s.operand = false) : checked bad p s = p s := by
  rw [ready_iff] at h
  simp [checked, h.1, h.2, hb]

/-- The three ways through the checks. -/
theorem checked_cases :
    checked bad p s = refuseFaulted s ∨ (s.blk.fault = false ∧ checked bad p s = raiseFault .operandLength s) ∨
      (s.blk.fault = false ∧ checked bad p s = p s) := by
  unfold checked
  cases s.blk.fault <;> simp
  cases operandTooLong s <;> simp
  cases bad s.operand <;> simp

end

/-- What a command of the block can do to the state, as data: it is refused while faulted, it enters a fault, FP takes
bytes, or it answers a byte output. -/
inductive CommandEffect (s : State) : State → Prop where
  | refused : CommandEffect s (refuseFaulted s)
  | faulted (c : Cause) (h : s.blk.fault = false) : CommandEffect s (raiseFault c s)
  | taken (B : List Byte) (k : Nat) (f : Option Frame) (h : s.blk.fault = false) (hB : NoCompletePrefix B)
      (hc : Within B.length s.cfg.parserCapacity) (hf : ∀ F, f = some F → F.wf = true) :
      CommandEffect s (fpRespond B k f s)
  | output (out : List Byte) (d : Nat) : CommandEffect s (respondOut out { s with draws := d })

theorem checked_effect {bad : List Byte → Bool} {p : State → State} {s : State}
    (h : s.blk.fault = false → CommandEffect s (p s)) : CommandEffect s (checked bad p s) := by
  rcases checked_cases (bad := bad) (p := p) (s := s) with e | ⟨hf, e⟩ | ⟨hf, e⟩ <;> rw [e]
  · exact .refused
  · exact .faulted _ hf
  · exact h hf

/-- A command with no state but its output has an output's effect. -/
theorem respondOut_effect (out : List Byte) (s : State) : CommandEffect s (respondOut out s) :=
  CommandEffect.output (s := s) out s.draws

/-- FE_FRAME's effect, whatever the payload. -/
theorem performFeFrame_effect (op : Opcode) (s : State) : CommandEffect s (performFeFrame op s) :=
  checked_effect fun _ => respondOut_effect _ s

/-- HH_ACCEPT's effect, whatever the nonce. -/
theorem performHhAccept_effect (s : State) : CommandEffect s (performHhAccept s) := by
  refine checked_effect fun h => ?_
  unfold acceptOperand
  split
  · exact .faulted _ h
  · exact respondOut_effect _ s

/-- FP_APPEND's effect, where the buffer is sound. -/
theorem appendSlice_effect {s : State} (h : s.blk.fault = false) (hB : NoCompletePrefix s.blk.buf)
    (hc : Within s.blk.buf.length s.cfg.parserCapacity) : CommandEffect s (appendSlice s) := by
  unfold appendSlice
  rcases appendLoop_cases (k := 0) (d := s.operand) hB hc with e | ⟨B, k, f, e, h1, h2, -, -, h5⟩ <;> rw [e]
  · exact .faulted _ h
  · exact .taken B k f h h1 h2 h5

/-- FP_PUSH's effect, where the buffer is sound. -/
theorem pushByte_effect {s : State} (b : Byte) (h : s.blk.fault = false) (hB : NoCompletePrefix s.blk.buf) :
    CommandEffect s (pushByte b s) := by
  unfold pushByte
  cases hfull : bufferFull s.cfg.parserCapacity s.blk.buf with
  | true => exact .faulted _ h
  | false =>
    refine .taken _ _ _ h (hB.fpStep b) ?_ fun F hF => fpStep_frame_wf hF
    exact fun n hn => le_trans (fpStep_length_le _ _) (exceeds_eq_false.mp hfull n hn)

/-- Every command answers a next state, and does one of these things to the state. -/
theorem exec_command {i : Instr} (hi : IsCommand i) {s : State}
    (hB : s.blk.fault = false → NoCompletePrefix s.blk.buf)
    (hc : Within s.blk.buf.length s.cfg.parserCapacity) :
    ∃ t, exec i s = .next t ∧ CommandEffect s t := by
  cases i with
  | fpPush b => exact ⟨_, rfl, checked_effect fun h => pushByte_effect b h (hB h)⟩
  | fpAppend => exact ⟨_, rfl, checked_effect fun h => appendSlice_effect h (hB h) hc⟩
  | mxXor => exact ⟨_, rfl, checked_effect fun _ => respondOut_effect _ s⟩
  | hhAccept => exact ⟨_, rfl, performHhAccept_effect s⟩
  | hhSha1 =>
    refine ⟨_, rfl, checked_effect fun h => ?_⟩
    unfold sha1Operand
    split
    · exact .faulted _ h
    · exact respondOut_effect _ s
  | hhB64 => exact ⟨_, rfl, checked_effect fun _ => respondOut_effect _ s⟩
  | feHeader op => exact ⟨_, rfl, checked_effect fun _ => respondOut_effect _ s⟩
  | feFrame op => exact ⟨_, rfl, performFeFrame_effect op s⟩
  | rdStatus =>
    refine ⟨_, rfl, ?_⟩
    split
    · exact .output (toBigEndian 2 (statusWord s).toNat) (drawsAfterStatus s)
    · exact checked_effect fun _ => .output (toBigEndian 2 (statusWord s).toNat) (drawsAfterStatus s)
  | _ => simp [IsCommand, Instr.toFrame] at hi

/-- Every instruction answers a next state. -/
theorem exec_answers_next (i : Instr) (s : State) : ∃ t, exec i s = .next t := by
  cases i <;> exact ⟨_, rfl⟩

/-- What an illegal command word can do (R191). -/
theorem illegalCommand_effect (s : State) : CommandEffect s (illegalCommand s) := by
  unfold illegalCommand
  cases h : s.blk.fault with
  | true => exact .refused
  | false => exact .faulted _ h

/-- A command touches nothing of the host's. -/
theorem CommandEffect.host {s t : State} (h : CommandEffect s t) :
    t.cfg = s.cfg ∧ t.operand = s.operand ∧ t.ses = s.ses ∧ t.net = s.net ∧ t.program = s.program ∧
      t.between = s.between := by
  cases h <;> simp

/-- A fault stays pending, with its cause (R242). -/
theorem CommandEffect.faulted_stays {s t : State} (h : CommandEffect s t) (hf : s.blk.fault = true) :
    t.blk = s.blk := by
  cases h with
  | refused => simp
  | faulted c h => simp [h] at hf
  | taken B k f h => simp [h] at hf
  | output out d => simp

end Sys2Proof.Machine
end

