-- ==== Sys2Proof/Laws/Host.lean ====
section
/-! SUPPORT. The host around the block: what the write loop, a send and the dispatch of a data frame can do
(47_host_consumer.md R208 to R222), and which move a step makes (R201, R204, R224). -/

namespace Sys2Proof.Machine

/-- The write loop writes a prefix, and all of it where it succeeds (R221). -/
theorem writeLoop_prefix (plan : List TxAnswer) (w : List Byte) :
    (writeLoop plan w).written <+: w ∧ ((writeLoop plan w).ok = true → (writeLoop plan w).written = w) := by
  induction plan generalizing w with
  | nil => simp [writeLoop]
  | cons a plan ih =>
    cases a with
    | failure => cases w <;> simp [writeLoop]
    | accept extra =>
      cases w with
      | nil => simp [writeLoop]
      | cons b w =>
        obtain ⟨h1, h2⟩ := ih ((b :: w).drop (extra + 1))
        obtain ⟨rest, hr⟩ := h1
        have hsplit : (b :: w).take (extra + 1) ++ (b :: w).drop (extra + 1) = b :: w := List.take_append_drop _ _
        simp only [writeLoop, List.isEmpty_cons, Bool.false_eq_true, if_false]
        refine ⟨⟨rest, ?_⟩, fun h => ?_⟩
        · rw [List.append_assoc, hr, hsplit]
        · rw [h2 h, hsplit]

/-- Where any failure stands behind short writes that take everything, everything is written (R221). -/
theorem writeLoop_ok {plan : List TxAnswer} {w : List Byte}
    (h : ∀ short rest, plan = short.map .accept ++ .failure :: rest → w.length ≤ shortWrites short) :
    (writeLoop plan w).ok = true := by
  induction plan generalizing w with
  | nil => rfl
  | cons a plan ih =>
    cases a with
    | failure =>
      obtain rfl : w = [] := by simpa [shortWrites] using h [] plan rfl
      rfl
    | accept extra =>
      cases w with
      | nil => simp [writeLoop]
      | cons b w =>
        simp only [writeLoop, List.isEmpty_cons, Bool.false_eq_true, if_false]
        refine ih fun short rest hp => ?_
        have := h (extra :: short) rest (by rw [hp]; rfl)
        simp [shortWrites] at this ⊢
        omega

/-- Where a failure comes before everything is written, what the short writes took is written (R221). -/
theorem writeLoop_fails (short : List Nat) (plan : List TxAnswer) {w : List Byte} (h : shortWrites short < w.length) :
    writeLoop (short.map .accept ++ .failure :: plan) w = ⟨w.take (shortWrites short), plan, false⟩ := by
  induction short generalizing w with
  | nil => cases w <;> simp [shortWrites] at h ⊢; simp [writeLoop]
  | cons extra short ih =>
    cases w with
    | nil => simp at h
    | cons b w =>
      have hs : shortWrites (extra :: short) = (extra + 1) + shortWrites short := by simp [shortWrites]
      have hd := ih (w := (b :: w).drop (extra + 1)) (by simp [hs] at h ⊢; omega)
      simp only [List.map_cons, List.cons_append, writeLoop, List.isEmpty_cons, Bool.false_eq_true, if_false, hd]
      rw [hs, List.take_add (i := extra + 1)]

/-- The write loop takes its answers from the front of the plan. -/
theorem writeLoop_plan (plan : List TxAnswer) (w : List Byte) : (writeLoop plan w).plan <:+ plan := by
  induction plan generalizing w with
  | nil => simp [writeLoop]
  | cons a plan ih =>
    cases a <;> cases w <;> simp [writeLoop]
    exact (ih _).trans (List.suffix_cons _ _)

/-- A send is one FE_FRAME and a write: the block does what a command does, and the rest of the host keeps (R220). -/
theorem sendFrame_spec (op : Opcode) (payload : List Byte) (s : State) :
    ∃ t, CommandEffect { s with operand := payload } t ∧
      (sendFrame op payload s).1 = { t with net := (sendFrame op payload s).1.net } ∧
      (sendFrame op payload s).1.net.rx = s.net.rx ∧ (sendFrame op payload s).1.net.down = s.net.down := by
  have he := performFeFrame_effect op { s with operand := payload }
  refine ⟨_, he, rfl, ?_, ?_⟩ <;>
    (simp only [sendFrame, writeAll]; split <;> simp [he.host.2.2.2.1])

/-- A protocol error leaves the reassembler sound; so does everything `append_fragment` answers. -/
theorem appendFragment_sound {op : Opcode} {fin : Bool} {payload : List Byte} {a : Assembler} (h : a.Sound) :
    (appendFragment op fin payload a).1.Sound := by
  unfold appendFragment
  split
  · rename_i hacc
    split
    · exact ⟨.inl rfl, fun _ => rfl⟩
    · refine ⟨?_, ?_⟩
      · rcases ho : a.startOp with _ | o
        · simp only [fragmentAccepted, ho, Bool.or_eq_true, beq_iff_eq] at hacc
          rcases hacc with rfl | rfl
          · exact .inr (.inl rfl)
          · exact .inr (.inr rfl)
        · rcases h.startKnown with h' | h' | h' <;> rw [ho] at h' <;> simp_all [startOpAfter]
      · intro hn
        cases ho : a.startOp <;> simp [startOpAfter, ho] at hn
  · exact h

section
variable {s : State}

/-- The three kinds of step: a reset, a read of STATUS, or the next move (R260, R227). -/
theorem step_cases (s : State) :
    (s.between.head? = some .reset ∧ step s = .next (assertReset (onward s))) ∨
    (s.between.head? = some .readStatus ∧ step s = exec .rdStatus { onward s with operand := [] }) ∨
    (Quiet s ∧ step s = advance (onward s)) := by
  unfold step takeStep Quiet
  rcases s.between.head? with _ | _ | _ | _
  · simp
  · simp
  · simp
  · exact .inr (.inl ⟨rfl, rfl⟩)

/-- A quiet step is the next move. -/
theorem step_quiet (h : Quiet s) : step s = advance (onward s) := by
  rcases step_cases s with ⟨hb, -⟩ | ⟨hb, -⟩ | ⟨-, e⟩
  · cases h _ hb
  · cases h _ hb
  · exact e

theorem step_reset {rest : List Interjection} (h : s.between = .reset :: rest) :
    step s = .next (assertReset { s with between := rest }) := by
  simp [step, takeStep, onward, h]

theorem step_readStatus {rest : List Interjection} (h : s.between = .readStatus :: rest) :
    step s = exec .rdStatus { s with between := rest, operand := [] } := by
  unfold step takeStep onward
  rw [h]
  rfl

/-- The buffer as framed mode is entered: kept while a fault is pending (R31, R241), else empty (R225). -/
theorem bufferEnteringFramed_cases (b : Block) :
    (b.fault = true ∧ bufferEnteringFramed b = b.buf) ∨ (b.fault = false ∧ bufferEnteringFramed b = []) := by
  cases h : b.fault <;> simp [bufferEnteringFramed, h]

/-- On a faulted block a handshake changes nothing of the block. -/
theorem handshakeWithKey_faulted (version key : List Byte) (ok : Bool) (h : s.blk.fault = true) :
    (handshakeWithKey version key ok s).blk = s.blk := by
  have e : performHhAccept { s with operand := key } = refuseFaulted { s with operand := key } :=
    checked_faulted (by exact h)
  simp only [handshakeWithKey]
  rw [e]
  split
  · change Block.mk (bufferEnteringFramed s.blk) s.blk.fault s.blk.cause = _
    rw [show bufferEnteringFramed s.blk = s.blk.buf by simp [bufferEnteringFramed, h]]
  · rfl

theorem advance_pending {f : Frame} (h : s.ses.pending = some f) :
    advance s = exec (instrOfFrame f) { s with ses := { s.ses with pending := none } } := by
  simp [advance, h]

theorem advance_owed (h : s.ses.pending = none) (hm : s.ses.mustClose = true) :
    advance s = .next (protocolClose s) := by simp [advance, h, hm]

theorem advance_return (h : s.ses.pending = none) (hm : s.ses.mustClose = false) (hr : s.ses.reading = true)
    (he : s.ses.rem = []) : advance s = .next (endRead (.messages s.ses.msgs) s) := by
  simp [advance, h, hm, hr, he]

theorem advance_turn (h : s.ses.pending = none) (hm : s.ses.mustClose = false) (hr : s.ses.reading = true)
    (he : s.ses.rem ≠ []) : advance s = cycleTurn s := by
  simp [advance, h, hm, hr, he]

theorem advance_idle (h : s.ses.pending = none) (hm : s.ses.mustClose = false) (hr : s.ses.reading = false)
    (hp : s.program = []) : advance s = .next s := by simp [advance, h, hm, hr, hp]

theorem advance_move {m : Move} {rest : List Move} (h : s.ses.pending = none) (hm : s.ses.mustClose = false)
    (hr : s.ses.reading = false) (hp : s.program = m :: rest) :
    advance s = makeMove m { s with program := rest } := by simp [advance, h, hm, hr, hp]

theorem step_atProgram {m : Move} {rest : List Move} (h : AtProgram s) (hp : s.program = m :: rest) :
    step s = makeMove m { onward s with program := rest } := by
  obtain ⟨h1, h2, h3, h4⟩ := h
  rw [step_quiet h1]
  exact advance_move (s := onward s) h2 h3 h4 hp

end

end Sys2Proof.Machine
end

