-- ==== Sys2Proof/Laws/PerInstr.lean ====
section
/-! SUPPORT. Statements made for every instruction, one lemma for each constructor. -/

namespace Sys2Proof.Laws.TableRow

/-- The number an instruction is encoded in carries its row's match under its row's mask (opcode_table.json). -/
def Statement (i : Instr) : Prop := tableNumber (encode i) &&& (tableRow i).mask = (tableRow i).value

/-- Byte 0 of an encoded frame carries the opcode in its low four bits, whatever FIN. -/
theorem byte0_opcode (fin : Bool) (op : Opcode) : (headerByte0 fin 0 op).toNat &&& 0x0F = op.toNat := by
  cases fin <;> revert op <;> decide

theorem fpPush (b : Byte) : Statement (.fpPush b) := by
  revert b; unfold Statement; decide

theorem fpAppend : Statement .fpAppend := by unfold Statement; decide

theorem mxXor : Statement .mxXor := by unfold Statement; decide

theorem hhAccept : Statement .hhAccept := by unfold Statement; decide

theorem hhSha1 : Statement .hhSha1 := by unfold Statement; decide

theorem hhB64 : Statement .hhB64 := by unfold Statement; decide

theorem feHeader (op : Opcode) : Statement (.feHeader op) := by
  revert op; unfold Statement; decide

theorem feFrame (op : Opcode) : Statement (.feFrame op) := by
  revert op; unfold Statement; decide

theorem rdStatus : Statement .rdStatus := by unfold Statement; decide

theorem wireCont (fin : Bool) (key : Option (List Byte)) (payload : List Byte) :
    Statement (.wireCont fin key payload) := byte0_opcode fin 0x0

theorem wireText (fin : Bool) (key : Option (List Byte)) (payload : List Byte) :
    Statement (.wireText fin key payload) := byte0_opcode fin 0x1

theorem wireBinary (fin : Bool) (key : Option (List Byte)) (payload : List Byte) :
    Statement (.wireBinary fin key payload) := byte0_opcode fin 0x2

theorem wireData3 (fin : Bool) (key : Option (List Byte)) (payload : List Byte) :
    Statement (.wireData3 fin key payload) := byte0_opcode fin 0x3

theorem wireData4 (fin : Bool) (key : Option (List Byte)) (payload : List Byte) :
    Statement (.wireData4 fin key payload) := byte0_opcode fin 0x4

theorem wireData5 (fin : Bool) (key : Option (List Byte)) (payload : List Byte) :
    Statement (.wireData5 fin key payload) := byte0_opcode fin 0x5

theorem wireData6 (fin : Bool) (key : Option (List Byte)) (payload : List Byte) :
    Statement (.wireData6 fin key payload) := byte0_opcode fin 0x6

theorem wireData7 (fin : Bool) (key : Option (List Byte)) (payload : List Byte) :
    Statement (.wireData7 fin key payload) := byte0_opcode fin 0x7

theorem wireClose (fin : Bool) (key : Option (List Byte)) (payload : List Byte) :
    Statement (.wireClose fin key payload) := byte0_opcode fin 0x8

theorem wirePing (fin : Bool) (key : Option (List Byte)) (payload : List Byte) :
    Statement (.wirePing fin key payload) := byte0_opcode fin 0x9

theorem wirePong (fin : Bool) (key : Option (List Byte)) (payload : List Byte) :
    Statement (.wirePong fin key payload) := byte0_opcode fin 0xa

theorem wireCtrlB (fin : Bool) (key : Option (List Byte)) (payload : List Byte) :
    Statement (.wireCtrlB fin key payload) := byte0_opcode fin 0xb

theorem wireCtrlC (fin : Bool) (key : Option (List Byte)) (payload : List Byte) :
    Statement (.wireCtrlC fin key payload) := byte0_opcode fin 0xc

theorem wireCtrlD (fin : Bool) (key : Option (List Byte)) (payload : List Byte) :
    Statement (.wireCtrlD fin key payload) := byte0_opcode fin 0xd

theorem wireCtrlE (fin : Bool) (key : Option (List Byte)) (payload : List Byte) :
    Statement (.wireCtrlE fin key payload) := byte0_opcode fin 0xe

theorem wireCtrlF (fin : Bool) (key : Option (List Byte)) (payload : List Byte) :
    Statement (.wireCtrlF fin key payload) := byte0_opcode fin 0xf

end Sys2Proof.Laws.TableRow
end

