-- ==== Sys2Proof/Tests/Slice0.lean ====
section
/-! SUPPORT. The tests of the first slice: ill-formed terms, words and frames written out from 30_encoding.md, one or
two single steps for each instruction (expected values from 95_test_vectors.md, by their ids), and for each obligation
with hypotheses a witness that meets them all. -/

namespace Sys2Proof.Tests

open Sys2Proof Sys2Proof.Machine

/-! ### Helpers -/

/-- The state after, if there is one. -/
def after : Host.Outcome State Fault Refusal → Option State
  | .next t => some t
  | .fault _ => none
  | .refused _ => none

/-- The response of a step. -/
def answer (o : Host.Outcome State Fault Refusal) : Option Response := (after o).bind State.resp

/-- The block after a step. -/
def block (o : Host.Outcome State Fault Refusal) : Option Block := (after o).map State.blk

/-- The session after a step. -/
def session (o : Host.Outcome State Fault Refusal) : Option Session := (after o).map State.ses

/-- What the host's call returned. -/
def returned (o : Host.Outcome State Fault Refusal) : Option CallResult := (session o).bind Session.ret

/-- A response with status OK and a byte output. -/
def okOut (out : List Byte) : Option Response := some ⟨0x00, 0, none, out⟩

/-- The state after reset, with a data operand presented. -/
def given (data : List Byte) : State := { State.reset with operand := data }

/-- The state after reset, with a buffer. -/
def holding (buf data : List Byte) : State :=
  { given data with blk := { buf := buf, fault := false, cause := 0x00 } }

/-- The state after reset, with one move to make. -/
def toMake (m : Move) : State := { State.reset with program := [m] }

/-- An open session, with one move to make. -/
def openTo (m : Move) : State := { toMake m with ses := { Session.reset with framed := true } }

/-- An open session in a read cycle, with a reassembler. -/
def reading (acc : List Byte) (op : Option Opcode) : State :=
  { State.reset with ses := { Session.reset with framed := true, reading := true, asm := ⟨acc, op⟩ } }

/-- A faulted block. -/
def faulted (buf : List Byte) (cause : BitVec 8) : State :=
  { State.reset with blk := { buf := buf, fault := true, cause := cause } }

/-- The mask key of most vectors. -/
def key1234 : Option (List Byte) := some (toBigEndian 4 0x01020304)

/-- "Hello". -/
def hello : List Byte := toBigEndian 5 0x48656c6c6f

/-- FP-2's frame. -/
def helloFrame : Frame := ⟨true, 0x1, true, some (toBigEndian 4 0x37fa213d), hello⟩

/-! ### Well-formedness refuses -/

theorem test_wf_short_key : (Instr.wireText true (some (toBigEndian 3 0x010203)) []).wf = false := by decide

theorem test_wf_long_key : (Instr.wirePing true (some (toBigEndian 5 0x0102030405)) []).wf = false := by decide

theorem test_wf_long_payload : (Instr.wireBinary true none (List.replicate (2 ^ 64) 0)).wf = false := by
  have : payloadFits (List.replicate (2 ^ 64) 0) = false := by
    unfold payloadFits; rw [List.length_replicate]; decide
  simp only [Instr.wf, Instr.toFrame, Frame.wf, this, Bool.and_false, Bool.false_and]

theorem test_wf_mask_flag : Frame.wf ⟨true, 0x1, true, none, []⟩ = false := by decide

/-! ### Decoding: words and frames written out from the encodings (R71, R73, R75 to R80, R82) -/

theorem test_decode_commands :
    decodeWord 0b0000001010000001 = .ok (.fpPush 0x81) ∧ decodeWord 0b0000001100000000 = .ok .fpAppend ∧
    decodeWord 0b0001000000000000 = .ok .mxXor ∧ decodeWord 0b0010000000000000 = .ok .hhAccept ∧
    decodeWord 0b0010000100000000 = .ok .hhSha1 ∧ decodeWord 0b0010001000000000 = .ok .hhB64 ∧
    decodeWord 0b0011000000000010 = .ok (.feHeader 0x2) ∧ decodeWord 0b0011000100001010 = .ok (.feFrame 0xA) ∧
    decodeWord 0b0100000000000000 = .ok .rdStatus := by and_intros <;> rfl

/-- CT-2 to CT-7, FE-16. -/
theorem test_decode_illegal :
    decodeWord 0x0000 = .error .reservedCommand ∧ decodeWord 0x0301 = .error .reservedImmediate ∧
    decodeWord 0x3010 = .error .reservedImmediate ∧ decodeWord 0x3110 = .error .reservedImmediate ∧
    decodeWord 0x4001 = .error .reservedImmediate ∧ decodeWord 0xFFFF = .error .reservedCommand ∧
    decodeWord 0x0100 = .error .reservedCommand := by and_intros <;> rfl

/-- The sixteen opcodes, each in an empty unmasked frame, FIN 1 and RSV 000: byte 0 is 0x80 + opcode (R76, R80). -/
theorem test_decode_wire :
    decodeFrame [0x80, 0x00] = .ok (.wireCont true none []) ∧ decodeFrame [0x81, 0x00] = .ok (.wireText true none []) ∧
    decodeFrame [0x82, 0x00] = .ok (.wireBinary true none []) ∧
    decodeFrame [0x83, 0x00] = .ok (.wireData3 true none []) ∧
    decodeFrame [0x84, 0x00] = .ok (.wireData4 true none []) ∧
    decodeFrame [0x85, 0x00] = .ok (.wireData5 true none []) ∧
    decodeFrame [0x86, 0x00] = .ok (.wireData6 true none []) ∧
    decodeFrame [0x87, 0x00] = .ok (.wireData7 true none []) ∧
    decodeFrame [0x88, 0x00] = .ok (.wireClose true none []) ∧
    decodeFrame [0x89, 0x00] = .ok (.wirePing true none []) ∧
    decodeFrame [0x8A, 0x00] = .ok (.wirePong true none []) ∧
    decodeFrame [0x8B, 0x00] = .ok (.wireCtrlB true none []) ∧
    decodeFrame [0x8C, 0x00] = .ok (.wireCtrlC true none []) ∧
    decodeFrame [0x8D, 0x00] = .ok (.wireCtrlD true none []) ∧
    decodeFrame [0x8E, 0x00] = .ok (.wireCtrlE true none []) ∧
    decodeFrame [0x8F, 0x00] = .ok (.wireCtrlF true none []) := by and_intros <;> rfl

/-- FP-10, FP-11, FP-8, L1-3: RSV dropped, FIN 0, a longer length form than needed, a key. -/
theorem test_decode_frames :
    decodeFrame [0xF1, 0x00] = .ok (.wireText true none []) ∧
    decodeFrame [0x00, 0x00] = .ok (.wireCont false none []) ∧
    decodeFrame (toBigEndian 9 0x827e00054142434445) = .ok (.wireBinary true none (toBigEndian 5 0x4142434445)) ∧
    decodeFrame (toBigEndian 8 0x88820102030402ea) = .ok (.wireClose true key1234 [0x03, 0xE8]) := by
  and_intros <;> rfl

theorem test_decodeTableWord :
    decodeTableWord 16 0x0200 = some (.fpPush 0x00) ∧ decodeTableWord 16 0x3105 = some (.feFrame 0x5) ∧
    decodeTableWord 16 0x0101 = none ∧ decodeTableWord 8 0x09 = some (.wirePing false none []) ∧
    decodeTableWord 8 0x8F = some (.wireCtrlF true none []) := by decide

/-! ### FP -/

/-- FP-14, its last byte. -/
theorem test_fpPush_completes :
    answer (exec (.fpPush 0x58) (holding (toBigEndian 10 0x818537fa213d7f9f4d51) [])) =
      some ⟨0x00, 1, some helloFrame, []⟩ := by decide +kernel

/-- FP-20. -/
theorem test_fpPush_data :
    answer (exec (.fpPush 0x81) (given [0x00])) = some ⟨0x02, 0, none, []⟩ ∧
    block (exec (.fpPush 0x81) (given [0x00])) = some ⟨[], true, 0x02⟩ := by decide +kernel

/-- FP-5: two frames offered, one taken. -/
theorem test_fpAppend_stops :
    answer (exec .fpAppend (given (toBigEndian 6 0x810161810162))) =
      some ⟨0x00, 3, some ⟨true, 0x1, false, none, [0x61]⟩, []⟩ := by decide +kernel

/-- FP-19, the 15-byte frame with PARSER_CAPACITY 14: the fault and its cause, whatever the buffer. -/
theorem test_fpAppend_capacity :
    let s := { given (toBigEndian 15 0x810d6162636465666768696a6b6c6d) with
      cfg := { Config.default with parserCapacity := some 14 } }
    answer (exec .fpAppend s) = some ⟨0x03, 0, none, []⟩ ∧
      (block (exec .fpAppend s)).map (fun b => (b.fault, b.cause)) = some (true, 0x03) := ⟨rfl, rfl⟩

/-! ### MX, HH, FE -/

/-- MX-4: the fifth byte wraps to key byte 0. -/
theorem test_mxXor : answer (exec .mxXor (given (toBigEndian 9 0xa1b2c3d40000000000))) =
    okOut (toBigEndian 5 0xa1b2c3d4a1) := by decide +kernel

/-- MX-6. -/
theorem test_mxXor_short :
    answer (exec .mxXor (given (toBigEndian 3 0x010203))) = some ⟨0x02, 0, none, []⟩ := by decide +kernel

/-- HH-8: the empty nonce. -/
theorem test_hhAccept : answer (exec .hhAccept (given [])) =
    okOut (toBigEndian 28 0x4b6668395149734d565a636c36784550597850487a5738535a38773d) := by decide +kernel

/-- HH-5: padding that spills into a second block. -/
theorem test_hhSha1 : answer (exec .hhSha1 (given (List.replicate 56 0x61))) =
    okOut (toBigEndian 20 0xc2db330f6083854c99d4b5bfb6e8f29f201be699) := by decide +kernel

/-- HH-15: "foob" gives "Zm9vYg==". -/
theorem test_hhB64 : answer (exec .hhB64 (given (toBigEndian 4 0x666f6f62))) =
    okOut (toBigEndian 8 0x5a6d397659673d3d) := by decide +kernel

/-- HH-16: "fooba" gives "Zm9vYmE=". -/
theorem test_hhB64_two : answer (exec .hhB64 (given (toBigEndian 5 0x666f6f6261))) =
    okOut (toBigEndian 8 0x5a6d3976596d453d) := by decide +kernel

/-- FE-6. -/
theorem test_feHeader_middle : answer (exec (.feHeader 0x2) (given (toBigEndian 8 65535))) =
    okOut (toBigEndian 4 0x827effff) := by decide +kernel

/-- FE-7. -/
theorem test_feHeader_long : answer (exec (.feHeader 0x2) (given (toBigEndian 8 65536))) =
    okOut (toBigEndian 10 0x827f0000000000010000) := by decide +kernel

/-- FE-12. -/
theorem test_feFrame : answer (exec (.feFrame 0x8) (given [0x03, 0xE8])) =
    okOut (toBigEndian 4 0x880203e8) := by decide +kernel

/-! ### RD_STATUS, illegal words, reset -/

/-- FP-18: MASK_KEY after x"81fe0001aa". -/
theorem test_rdStatus : answer (exec .rdStatus (holding (toBigEndian 5 0x81fe0001aa) [])) =
    okOut [0x00, 0x06] := by decide +kernel

/-- CT-8: RD_STATUS after the fault. -/
theorem test_rdStatus_faulted : answer (exec .rdStatus (faulted [0x81] 0x01)) = okOut [0x01, 0x03] := by
  decide +kernel

/-- CT-4, as a step of the host's program. -/
theorem test_illegal_word : answer (step (toMake (.command 0x3010 []))) = some ⟨0x01, 0, none, []⟩ ∧
    block (step (toMake (.command 0x3010 []))) = some ⟨[], true, 0x01⟩ := by decide +kernel

/-- P4: the FP_PUSH after the fault is not performed. -/
theorem test_faulted_push : answer (exec (.fpPush 0x00) (faulted [0x81] 0x02)) = some ⟨0x80, 0, none, []⟩ ∧
    block (exec (.fpPush 0x00) (faulted [0x81] 0x02)) = some ⟨[0x81], true, 0x02⟩ := by decide +kernel

/-! ### The wire opcodes: the host's dispatch -/

/-- H-6. -/
theorem test_cont_idle : returned (exec (.wireCont true key1234 [0x78]) (reading [] none)) =
    some (.error .unexpectedOpcode) := by decide +kernel

/-- L1-8, its last fragment. -/
theorem test_cont_finishes :
    (session (exec (.wireCont true key1234 [0x21]) (reading hello (some 0x1)))).map (fun x => (x.msgs, x.asm)) =
      some ([.text (toBigEndian 6 0x48656c6c6f21)], ⟨[], none⟩) := by decide +kernel

/-- H-7's second frame: the reassembler is left as it was. -/
theorem test_text_inProgress :
    (session (exec (.wireText true key1234 [0x62]) (reading [0x61] (some 0x1)))).map (fun x => (x.ret, x.asm)) =
      some (some (.error .unexpectedOpcode), ⟨[0x61], some 0x1⟩) := by decide +kernel

/-- H-8: invalid UTF-8; the reassembler is reset. -/
theorem test_text_invalid :
    (session (exec (.wireText true key1234 [0xFF]) (reading [] none))).map (fun x => (x.ret, x.asm)) =
      some (some (.error .invalidTextPayload), ⟨[], none⟩) := by decide +kernel

/-- H-11's BINARY frame. -/
theorem test_binary :
    (session (exec (.wireBinary true key1234 [0x00, 0x01]) (reading [] none))).map Session.msgs =
      some [.binary [0x00, 0x01]] := by decide +kernel

/-- H-9 and R213: the reserved data opcodes, idle and in progress. -/
theorem test_reservedData :
    returned (exec (.wireData3 true key1234 []) (reading [] none)) = some (.error .unexpectedOpcode) ∧
    returned (exec (.wireData4 true none []) (reading [] none)) = some (.error .unexpectedOpcode) ∧
    returned (exec (.wireData5 false none []) (reading [] (some 0x2))) = some (.error .unexpectedOpcode) ∧
    returned (exec (.wireData6 true none []) (reading [] (some 0x1))) = some (.error .unexpectedOpcode) ∧
    returned (exec (.wireData7 true none []) (reading [] none)) = some (.error .unexpectedOpcode) := by decide +kernel

/-- H-1. -/
theorem test_close_code :
    (session (exec (.wireClose true key1234 [0x03, 0xE8]) (reading [] none))).map (fun x => (x.ret, x.closed)) =
      some (some (.messages [.close (some 1000)]), true) := by decide +kernel

/-- H-3: a payload of one byte gives no code. -/
theorem test_close_short :
    returned (exec (.wireClose true key1234 [0x03]) (reading [] none)) = some (.messages [.close none]) := by
  decide +kernel

/-- H-4: the pong's bytes, and nothing delivered. -/
theorem test_ping :
    (after (exec (.wirePing true key1234 (toBigEndian 5 0x68656c6c6f)) (reading [] none))).map
      (fun t => (t.net.tx, t.ses)) =
      some (toBigEndian 7 0x8a0568656c6c6f, (reading [] none).ses) := by decide +kernel

/-- H-11 and R207: PONG and the reserved control opcodes are ignored. -/
theorem test_ignored :
    after (exec (.wirePong true key1234 [0x78]) (reading [0x61] (some 0x1))) = some (reading [0x61] (some 0x1)) ∧
    after (exec (.wireCtrlB true key1234 []) (reading [] none)) = some (reading [] none) ∧
    after (exec (.wireCtrlC true none []) (reading [] none)) = some (reading [] none) ∧
    after (exec (.wireCtrlD true none []) (reading [] none)) = some (reading [] none) ∧
    after (exec (.wireCtrlE true none []) (reading [] none)) = some (reading [] none) ∧
    after (exec (.wireCtrlF true none []) (reading [] none)) = some (reading [] none) := by decide +kernel

/-- R216: one sequence of each length, and an overlong form, a surrogate and a value above U+10FFFF. -/
theorem test_utf8 :
    utf8Valid [0xC3, 0xA9] = true ∧ utf8Valid [0xED, 0x9F, 0xBF] = true ∧
    utf8Valid [0xF4, 0x8F, 0xBF, 0xBF] = true ∧ utf8Valid [0xC0, 0x80] = false ∧
    utf8Valid [0xED, 0xA0, 0x80] = false ∧ utf8Valid [0xF4, 0x90, 0x80, 0x80] = false ∧
    utf8Valid [0xC3] = false := by decide

/-! ### What falls between the host's moves, and the collaborator's builder -/

/-- P2's second line, in the middle of a read cycle (R227): STATUS is read, and the cycle is as it was. -/
theorem test_status_in_cycle :
    let s := { holding (toBigEndian 3 0x028201) [] with
      ses := { Session.reset with framed := true, reading := true, rem := [0x02] }, between := [.readStatus] }
    answer (step s) = okOut [0x00, 0x06] ∧ session (step s) = some s.ses := by decide +kernel

/-- R226: a body of 12 bytes gets Content-Length 12; a manual one is rejected. -/
theorem test_http_builder :
    ((httpStatus [] [] 200).header contentLengthName [0x30]).build = ⟨[], [], 200, [], none⟩ ∧
    ((httpStatus [] [] 200).payload (List.replicate 12 0)).headers = [(contentLengthName, [0x31, 0x32])] ∧
    decimal 0 = [0x30] := by decide

/-! ### What the host asks of withFetchWord -/

theorem test_withFetchWord_word :
    step (State.reset.withFetchWord 16 0x3102) =
      exec (.feFrame 0x2) { State.reset.withFetchWord 16 0x3102 with program := [], operand := [] } := rfl

theorem test_withFetchWord_frame :
    step (State.reset.withFetchWord 8 0x09) =
      exec (.wirePing false none [])
        { State.reset with ses := { State.reset.ses with reading := true } } := rfl

/-! ### Witnesses: concrete values that meet the hypotheses of each obligation -/

theorem ready_of_reset_cfg {s : State} (h1 : s.blk.fault = false) (h2 : s.cfg = Config.default) : Ready s :=
  ⟨h1, by rw [h2]; intro c h; simp [Config.default] at h⟩

theorem given_replicate_length (n : Nat) : (given (List.replicate n 0)).operand.length = n := List.length_replicate

theorem quiet_of_none {s : State} (h : s.between = []) : Quiet s := by intro i hi; simp [h] at hi

theorem quiet_of_quiet {s : State} {rest : List Interjection} (h : s.between = .quiet :: rest) : Quiet s := by
  intro i hi; simpa [h] using hi.symm

theorem within_none (n : Nat) : Within n none := by intro c h; simp at h

theorem witness_CommandWordsRoundTrip :
    decode (.word 0x310F) = .ok (.feFrame 0xF) ∧ encode (.feFrame 0xF) = .word 0x310F := ⟨rfl, rfl⟩

theorem witness_InstructionsRoundTrip :
    (Instr.wireCont false key1234 hello).wf = true ∧ (Instr.feHeader 0xF).wf = true := by decide

theorem witness_EveryFrameFormatDecodes :
    (Instr.wireText true key1234 hello).wf = true ∧
    (Instr.wireText true key1234 hello).toFrame = some ⟨true, 0x1, true, key1234, hello⟩ ∧
    LenForm.h2.holds hello.length = true ∧ LenForm.h4.holds hello.length = true ∧
    LenForm.h10.holds hello.length = true := by decide

/-- The largest payload of each length form. -/
theorem witness_LenForm_boundaries :
    LenForm.h2.holds (List.replicate 125 (0 : Byte)).length = true ∧
    LenForm.h4.holds (List.replicate 65535 (0 : Byte)).length = true ∧
    LenForm.h10.holds (List.replicate (2 ^ 64 - 1) (0 : Byte)).length = true ∧
    payloadFits (List.replicate (2 ^ 64 - 1) 0) = true := by
  simp only [LenForm.holds, payloadFits, List.length_replicate]; decide

theorem witness_FrameEndsByCountAlone :
    helloFrame.wf = true ∧ LenForm.h4.holds helloFrame.payload.length = true ∧
    12 < (encodeFrame 0 .h4 helloFrame).length ∧ [(0x00 : Byte)] ≠ [] := by decide

/-- With an interjection that is quiet, and with a read of STATUS in a read cycle. -/
theorem witness_StepPerformsIssuedCommand :
    (let s := { toMake (.command 0x1000 hello) with between := [.quiet, .reset] }
     AtProgram s ∧ s.program = .command 0x1000 hello :: [] ∧ decodeWord 0x1000 = .ok .mxXor) ∧
    ({ startCycle hello State.reset with between := [.readStatus] } : State).between = .readStatus :: [] :=
  ⟨⟨⟨quiet_of_quiet rfl, rfl, rfl, rfl⟩, rfl, rfl⟩, rfl⟩

theorem witness_StepDispatchesEmittedFrame :
    Quiet (placeFrame helloFrame State.reset) ∧
    (placeFrame helloFrame State.reset).ses.pending = some helloFrame ∧
    (Instr.wireText true (some (toBigEndian 4 0x37fa213d)) hello).toFrame = some helloFrame :=
  ⟨quiet_of_none rfl, rfl, rfl⟩

/-- Both clauses: a rest to take, and none. -/
theorem witness_StepTurnsReadCycle :
    Quiet (startCycle hello State.reset) ∧ (startCycle hello State.reset).ses.pending = none ∧
    (startCycle hello State.reset).ses.mustClose = false ∧ (startCycle hello State.reset).ses.reading = true ∧
    (startCycle hello State.reset).ses.rem ≠ [] ∧
    Quiet (startCycle [] State.reset) ∧ (startCycle [] State.reset).ses.rem = [] :=
  ⟨quiet_of_none rfl, rfl, rfl, rfl, by decide, quiet_of_none rfl, rfl⟩

/-- Each way to be illegal, at its boundary; with and without a pending fault. -/
theorem witness_IllegalWordFaults :
    AtProgram (toMake (.command 0x0301 [])) ∧ IllegalWord 0x0301 ∧ IllegalWord 0x40FF ∧ IllegalWord 0x3010 ∧
    IllegalWord 0x31F0 ∧ IllegalWord 0x0000 ∧ IllegalWord 0x41FF ∧
    (toMake (.command 0x0301 [])).blk.fault = false ∧
    (AtProgram { faulted [] 0x02 with program := [.command 0x0301 []] } ∧ (faulted [] 0x02).blk.fault = true) :=
  ⟨⟨quiet_of_none rfl, rfl, rfl, rfl⟩, by unfold IllegalWord; decide, by unfold IllegalWord; decide, by unfold IllegalWord; decide, by unfold IllegalWord; decide,
    by unfold IllegalWord; decide, by unfold IllegalWord; decide, rfl, ⟨quiet_of_none rfl, rfl, rfl, rfl⟩, rfl⟩

theorem witness_IdleKeepsState : AtProgram State.reset ∧ State.reset.program = [] := ⟨⟨quiet_of_none rfl, rfl, rfl, rfl⟩, rfl⟩

/-- The buffer may end exactly at the capacity. -/
theorem witness_FpPushTakesByte :
    let s := { holding [0x81] [] with cfg := { Config.default with parserCapacity := some 14 } }
    Ready s ∧ s.operand = [] ∧ Within (s.blk.buf.length + 1) s.cfg.parserCapacity :=
  ⟨⟨rfl, by intro c h; simp [Config.default] at h⟩, rfl, by intro c h; simp at h; subst h; decide⟩

/-- Both clauses: nothing completes; and two frames in a slice that passes the capacity only after the first. -/
theorem witness_FpAppendConsumption :
    (Ready (given [0x81]) ∧ Within ((given [0x81]).blk.buf.length + (given [0x81]).operand.length) none ∧
      ∀ j, 0 < j → j ≤ 1 → complete ([] ++ ([0x81] : List Byte).take j) = false) ∧
    (let s := { given (toBigEndian 18 0x810d6162636465666768696a6b6c6d810161) with
        cfg := { Config.default with parserCapacity := some 15 } }
     Ready s ∧ 15 ≤ s.operand.length ∧ Within (s.blk.buf.length + 15) s.cfg.parserCapacity ∧
      complete (s.blk.buf ++ s.operand.take 15) = true ∧
      ∀ j, 0 < j → j < 15 → complete (s.blk.buf ++ s.operand.take j) = false) := by
  refine ⟨⟨ready_of_reset_cfg rfl rfl, within_none _, ?_⟩, ⟨rfl, ?_⟩, by decide, ?_, by decide, ?_⟩
  · intro j h1 h2; obtain rfl : j = 1 := by omega
    decide
  · intro c h; simp [Config.default] at h
  · intro c h; simp [given, State.reset, Block.reset] at h ⊢; omega
  · intro j h1 h2; interval_cases j <;> decide

theorem witness_FpAppendOfNothing : (holding [0x81] []).blk.fault = false ∧ (holding [0x81] []).operand = [] := by
  decide

/-- The clauses of FP: a buffer at the capacity, one byte more. -/
theorem witness_CapacityFaults_fp :
    let s := { holding (toBigEndian 14 0x810d6162636465666768696a6b6c) [] with
      cfg := { Config.default with parserCapacity := some 14 } }
    let t := { s with operand := [0x6d] }
    Ready s ∧ s.operand = [] ∧ s.cfg.parserCapacity = some 14 ∧ 14 < s.blk.buf.length + 1 ∧
    Ready t ∧ t.blk.buf.length ≤ 14 ∧ 14 < t.blk.buf.length + t.operand.length ∧
    (∀ j, 0 < j → t.blk.buf.length + j ≤ 14 → complete (t.blk.buf ++ t.operand.take j) = false) :=
  ⟨⟨rfl, by intro c h; simp [Config.default] at h⟩, rfl, rfl, by decide,
    ⟨rfl, by intro c h; simp [Config.default] at h⟩, by decide, by decide,
    fun j h1 h2 => by have : (toBigEndian 14 0x810d6162636465666768696a6b6c).length + j ≤ 14 := h2
                      rw [show (toBigEndian 14 0x810d6162636465666768696a6b6c).length = 14 from rfl] at this; omega⟩

/-- The clauses of HH: one byte past HASH_MAX_BYTES. -/
theorem witness_CapacityFaults_hh :
    Ready (given (List.replicate (2 ^ 61 - 36) 0)) ∧
    2 ^ 61 - 1 < (given (List.replicate (2 ^ 61 - 36) 0)).operand.length + 36 ∧
    Ready (given (List.replicate (2 ^ 61) 0)) ∧ 2 ^ 61 - 1 < (given (List.replicate (2 ^ 61) 0)).operand.length :=
  ⟨ready_of_reset_cfg rfl rfl, by rw [given_replicate_length]; decide, ready_of_reset_cfg rfl rfl, by rw [given_replicate_length]; decide⟩

/-- A stream longer than the capacity, of frames that are not; the buffer that gathers a byte is at most the capacity. -/
theorem witness_SplitIndependence :
    let slices : List (List Byte) := List.replicate 8 [0x81, 0x00]
    let s := { State.reset with cfg := { Config.default with parserCapacity := some 14 } }
    s.blk.fault = false ∧ 14 < slices.flatten.length ∧
    (∀ n, n < slices.flatten.length →
      Within ((gather s.blk.buf (slices.flatten.take n)).length + 1) s.cfg.parserCapacity) ∧
    ∀ d ∈ slices, Within d.length s.cfg.dataCapacity := by
  refine ⟨rfl, by decide, ?_, fun _ _ => within_none _⟩
  intro n hn c hc
  obtain rfl : 14 = c := by simpa using hc
  have hlen : (List.replicate 8 ([0x81, 0x00] : List Byte)).flatten.length = 16 := by decide
  rw [hlen] at hn
  interval_cases n <;> decide

theorem witness_EveryFrameEmitted :
    let s := given (encodeFrame 0x7 .h10 helloFrame)
    Ready s ∧ s.blk.buf = [] ∧ helloFrame.wf = true ∧ LenForm.h10.holds helloFrame.payload.length = true ∧
    s.operand = encodeFrame 0x7 .h10 helloFrame ∧ Within s.operand.length s.cfg.parserCapacity :=
  ⟨ready_of_reset_cfg rfl rfl, rfl, by decide, by decide, rfl, within_none _⟩

theorem witness_EncoderParserRoundTrip :
    hello.length ≤ 2 ^ 64 - 1 ∧ State.reset.blk.fault = false ∧ State.reset.blk.buf = [] ∧
    [[0x81], [], 0x05 :: hello].flatten = feHdr 0x1 hello.length ++ hello ∧
    Within ([[0x81], [], 0x05 :: hello].flatten.length) State.reset.cfg.parserCapacity ∧
    ∀ d ∈ [[0x81], [], 0x05 :: hello], Within d.length State.reset.cfg.dataCapacity :=
  ⟨by decide, rfl, rfl, by decide, within_none _, fun _ _ => within_none _⟩

theorem witness_MxXorResult : Ready (given (toBigEndian 4 0)) ∧ 4 ≤ (given (toBigEndian 4 0)).operand.length :=
  ⟨ready_of_reset_cfg rfl rfl, by decide⟩

theorem witness_MaskingTwiceRestores : (toBigEndian 4 0x37fa213d).length = 4 := rfl

/-- The longest message. -/
theorem witness_HhSha1Result :
    Ready (given (List.replicate (2 ^ 61 - 1) 0)) ∧
    (given (List.replicate (2 ^ 61 - 1) 0)).operand.length ≤ 2 ^ 61 - 1 :=
  ⟨ready_of_reset_cfg rfl rfl, Nat.le_of_eq (given_replicate_length _)⟩

theorem witness_Sha1Blocks : (List.replicate 64 (0x61 : Byte)).length = 64 := by decide

theorem witness_HhAcceptResult :
    Ready (given (List.replicate (2 ^ 61 - 37) 0)) ∧
    (given (List.replicate (2 ^ 61 - 37) 0)).operand.length + 36 ≤ 2 ^ 61 - 1 :=
  ⟨ready_of_reset_cfg rfl rfl, by rw [given_replicate_length]; decide⟩

/-- The last group of three, two and one bytes. -/
theorem witness_HhB64Result :
    Ready (given (toBigEndian 5 0)) ∧ 3 * 1 < (given (toBigEndian 5 0)).operand.length ∧
    3 * 0 + 3 ≤ (given (toBigEndian 3 0)).operand.length ∧ 3 * 1 + 2 = (given (toBigEndian 5 0)).operand.length ∧
    3 * 1 + 1 = (given (toBigEndian 4 0)).operand.length :=
  ⟨ready_of_reset_cfg rfl rfl, by decide, by decide, by decide, by decide⟩

/-- Operands on both sides of each limit between the three forms. -/
theorem witness_FeHeaderResult :
    Ready (given (toBigEndian 8 125)) ∧ (given (toBigEndian 8 125)).operand.length = 8 ∧
    bigEndian (toBigEndian 8 125) = 125 ∧ bigEndian (toBigEndian 8 126) = 126 ∧
    bigEndian (toBigEndian 8 0xFFFF) = 0xFFFF ∧ bigEndian (toBigEndian 8 0x10000) = 0x10000 :=
  ⟨ready_of_reset_cfg rfl rfl, by decide, by decide, by decide, by decide, by decide⟩

theorem witness_FeFrameResult :
    Ready (given (List.replicate (2 ^ 64 - 1) 0)) ∧
    (given (List.replicate (2 ^ 64 - 1) 0)).operand.length ≤ 2 ^ 64 - 1 :=
  ⟨ready_of_reset_cfg rfl rfl, Nat.le_of_eq (given_replicate_length _)⟩

theorem witness_FeOutputIsShortestFormat : hello.length ≤ 2 ^ 64 - 1 ∧ LenForm.h4.holds hello.length = true := by
  decide

/-- Without a fault, and with a precise one. -/
theorem witness_RdStatusResult :
    (holding [0x81, 0x7E] []).operand = [] ∧ (holding [0x81, 0x7E] []).blk.fault = false ∧
    stage (holding [0x81, 0x7E] []).blk.buf = some 2 ∧
    (faulted [0x81] 0x02).operand = [] ∧ (faulted [0x81] 0x02).blk.cause ≠ 0x03 ∧
    stage (faulted [0x81] 0x02).blk.buf = some 1 := by decide

theorem witness_RdStatusAfterCapacity :
    (faulted [] 0x03).operand = [] ∧ (faulted [] 0x03).blk.fault = true ∧ (faulted [] 0x03).blk.cause = 0x03 := by
  decide

theorem witness_StageCoversGatheredBuffers : NoCompletePrefix [0x81, 0x05, 0x48] := by
  intro n h1 h2
  have : n = 1 ∨ n = 2 ∨ n = 3 := by simp at h2; omega
  rcases this with rfl | rfl | rfl <;> decide

/-- Each clause, one byte to the wrong side. -/
theorem witness_OperandLengthFaults :
    (given [0x00]).blk.fault = false ∧ IsCommand .fpAppend ∧
    ({ given [0x00] with cfg := { Config.default with dataCapacity := some 0 } } : State).cfg.dataCapacity = some 0 ∧
    0 < (given [0x00]).operand.length ∧ (given [0x00]).operand ≠ [] ∧
    (given (toBigEndian 3 0)).operand.length < 4 ∧ (given (toBigEndian 7 0)).operand.length ≠ 8 ∧
    (given (toBigEndian 9 0)).operand.length ≠ 8 :=
  ⟨rfl, rfl, rfl, by decide, by decide, by decide, by decide, by decide⟩

theorem witness_OperandLengthFaults_feFrame :
    (given (List.replicate (2 ^ 64) 0)).blk.fault = false ∧
    2 ^ 64 - 1 < (given (List.replicate (2 ^ 64) 0)).operand.length := ⟨rfl, by rw [given_replicate_length]; decide⟩

/-- RD_STATUS with data, and another command without. -/
theorem witness_FaultedRefusesCommands :
    (faulted [] 0x01).blk.fault = true ∧ IsCommand .hhB64 ∧ ¬ (Instr.hhB64 = .rdStatus ∧ (faulted [] 0x01).operand = []) ∧
    IsCommand .rdStatus ∧ ¬ (Instr.rdStatus = .rdStatus ∧ ({ faulted [] 0x01 with operand := [0] } : State).operand = []) :=
  ⟨rfl, rfl, by decide, rfl, by simp⟩

/-- A step that keeps the fault, and one that resets. -/
theorem witness_FaultKeepsFirstCause :
    (faulted [0x81] 0x01).blk.fault = true ∧ (faulted [0x81] 0x01).blk.cause ≠ 0x03 ∧ (after (step (faulted [0x81] 0x01))).isSome = true ∧
    (block (step { faulted [0x81] 0x01 with program := [.reset] })) = some ⟨[], false, 0x00⟩ := by decide +kernel

theorem witness_ResetClearsBlock :
    ({ faulted [0x81] 0x01 with between := [.reset] } : State).between = .reset :: [] ∧
    AtProgram (toMake .reset) ∧ (toMake .reset).program = .reset :: [] ∧
    State.reset.blk = { buf := [], fault := false, cause := 0x00 } ∧ State.reset.operand = [] :=
  ⟨rfl, ⟨quiet_of_none rfl, rfl, rfl, rfl⟩, rfl, rfl, rfl⟩

/-- The state after reset is sound, and so has a next state that is. -/
theorem witness_StepKeepsSound : State.reset.Sound ∧ step State.reset = .next State.reset :=
  ⟨{ block := ⟨fun _ n h1 h2 => by simp [State.reset, Block.reset] at h2; omega, within_none _, fun _ => rfl,
        fun h => by simp [State.reset, Block.reset] at h⟩
     response := fun r h => by simp [State.reset] at h
     assembler := ⟨.inl rfl, fun _ => rfl⟩
     pendingWf := fun f h => by simp [State.reset, Session.reset] at h
     closedIdle := fun _ => rfl
     owedIdle := fun _ => rfl
     idleEmpty := fun _ => rfl }, rfl⟩

theorem witness_ParametersAreFixed : step State.reset = .next State.reset := rfl

theorem witness_PureUnitsChangeOnlyResponse :
    Instr.feFrame 0x1 ∈ [Instr.mxXor, .hhAccept, .hhSha1, .hhB64, .feHeader 0x1, .feFrame 0x1] ∧
    (after (exec (.feFrame 0x1) (given hello))).isSome = true ∧
    (answer (exec (.feFrame 0x1) (given hello))).map Response.status = some 0x00 ∧
    (answer (exec .mxXor (faulted [] 0x01))).map Response.status = some 0x80 := by decide +kernel

theorem witness_CommandsLeaveHost : IsCommand .fpAppend ∧ (after (exec .fpAppend (given hello))).isSome = true :=
  ⟨rfl, rfl⟩

/-- The four clauses of CONT and the three of TEXT and BINARY. -/
theorem witness_WireDataResults :
    (reading [] none).ses.asm.startOp = none ∧ (reading [] (some 0x1)).ses.asm.startOp = some 0x1 ∧
    (reading [] (some 0x2)).ses.asm.startOp = some 0x2 ∧ (reading [] (some 0x2)).ses.asm.startOp ≠ none := by decide

theorem witness_WireReservedDataResult :
    Instr.wireData7 true none [] ∈ [Instr.wireData3 true none [], .wireData4 true none [], .wireData5 true none [],
      .wireData6 true none [], .wireData7 true none []] := by decide

/-- A payload one byte too short for a code, and one just long enough. -/
theorem witness_WireCloseResult :
    ([0x03] : List Byte).length < 2 ∧ ([0x03, 0xE8] : List Byte) = 0x03 :: 0xE8 :: [] := by decide

theorem takes_of_reset {s : State} (h : s.net = Transport.reset) (n : Nat) : Takes s.net n := by
  rw [h]; exact ⟨rfl, fun short plan he => by simp [Transport.reset] at he⟩

/-- A transport that fails only behind the last byte of 7, one that fails before it, and one that is down. -/
theorem witness_WirePingResult :
    Ready { reading [] none with operand := hello } ∧ hello.length ≤ 2 ^ 64 - 1 ∧
    (specHeader 0xA hello.length ++ hello).length = 7 ∧
    Takes { Transport.reset with txPlan := [.accept 5, .accept 0, .failure] } 7 ∧
    WriteFails { Transport.reset with txPlan := [.accept 5, .failure] } 7 [5] [] ∧
    WriteFails { Transport.reset with down := true } 7 [] [] := by
  refine ⟨ready_of_reset_cfg rfl rfl, by decide, by decide, ⟨rfl, ?_⟩, .inl ⟨rfl, rfl, by decide⟩, .inr ⟨rfl, rfl, rfl⟩⟩
  intro short plan h
  match short with
  | [] => simp at h
  | [_] => simp at h
  | [a, b] => simp at h; simp [shortWrites]; omega
  | _ :: _ :: _ :: _ => simp at h

theorem witness_WireIgnoredResult :
    Instr.wireCtrlF true none [] ∈ [Instr.wirePong true none [], .wireCtrlB true none [], .wireCtrlC true none [],
      .wireCtrlD true none [], .wireCtrlE true none [], .wireCtrlF true none []] := by decide

/-- A data frame, and a PING. -/
theorem witness_DispatchLeavesBlock :
    (Instr.wireText true none hello).toFrame = some ⟨true, 0x1, false, none, hello⟩ ∧
    (after (exec (.wireText true none hello) (reading [] none))).isSome = true ∧
    (Instr.wirePing true none hello).toFrame = some ⟨true, 0x9, false, none, hello⟩ ∧
    Ready { reading [] none with operand := hello } ∧ hello.length ≤ 2 ^ 64 - 1 ∧
    (after (exec (.wirePing true none hello) (reading [] none))).isSome = true :=
  ⟨rfl, rfl, rfl, ready_of_reset_cfg rfl rfl, by decide, rfl⟩

theorem witness_ControlFramesLeaveAssembler :
    (Instr.wireClose true none []).toFrame = some ⟨true, 0x8, false, none, []⟩ ∧ 8 ≤ (0x8 : Opcode).toNat ∧
    (after (exec (.wireClose true none []) (reading [] none))).isSome = true := by decide

/-- Its premise on the state after can only be met where the state before meets it too: that is its claim. -/
theorem witness_UnsupportedOpcodeNeverRaised :
    let s := { State.reset with ses := { Session.reset with ret := some (.error .unsupportedOpcode) } }
    s.Sound ∧ step s = .next s ∧ s.ses.ret = some (.error .unsupportedOpcode) :=
  ⟨{ block := witness_StepKeepsSound.1.block
     response := fun r h => by simp [State.reset] at h
     assembler := ⟨.inl rfl, fun _ => rfl⟩
     pendingWf := fun f h => by simp [Session.reset] at h
     closedIdle := fun _ => rfl
     owedIdle := fun _ => rfl
     idleEmpty := fun _ => rfl }, rfl, rfl⟩

/-- H-14's two fragments, masked: valid only as a whole; and the two kinds of message. -/
theorem witness_FragmentsReassemble :
    let first : Frame := ⟨false, 0x1, true, key1234, [0xC3]⟩
    let last : Frame := ⟨true, 0x0, true, key1234, [0xA9]⟩
    (reading [] none).ses.asm = { acc := [], startOp := none } ∧ (first.opcode = 0x1 ∨ first.opcode = 0x2) ∧
    first.fin = false ∧ (∀ f ∈ ([⟨false, 0x0, false, none, []⟩] : List Frame), f.opcode = 0x0 ∧ f.fin = false) ∧
    last.opcode = 0x0 ∧ last.fin = true ∧ utf8Valid (first.payload ++ [] ++ last.payload) = true ∧
    utf8Valid (first.payload ++ [] ++ []) = false := by decide

/-- A Closed session that goes on reading STATUS. -/
theorem witness_NoReopening :
    let s := { toMake (.command 0x4000 []) with ses := { Session.reset with framed := true, closed := true } }
    s.ses.framed = true ∧ s.ses.closed = true ∧ (after (step s)).isSome = true := ⟨rfl, rfl, rfl⟩

theorem witness_ClosedSessionRefuses :
    let s := { toMake .read with ses := { Session.reset with framed := true, closed := true } }
    AtProgram s ∧ s.program = .read :: [] ∧ s.ses.framed = true ∧ s.ses.closed = true ∧
    Move.read ∈ [Move.read, .feed [], .send 0x1 [], .sendText [], .sendBytes [], .close none] :=
  ⟨⟨quiet_of_none rfl, rfl, rfl, rfl⟩, rfl, rfl, rfl, by simp⟩

/-- The five moves, each with its opcode and payload. -/
theorem witness_SendWritesWholeFrame :
    AtProgram (openTo (.sendText hello)) ∧ (openTo (.sendText hello)).program = .sendText hello :: [] ∧
    (openTo (.sendText hello)).ses.framed = true ∧ (openTo (.sendText hello)).ses.closed = false ∧
    Ready { openTo (.sendText hello) with operand := hello } ∧ hello.length ≤ 2 ^ 64 - 1 ∧
    Takes (openTo (.sendText hello)).net 7 ∧
    WriteFails { Transport.reset with txPlan := [.failure] } 7 [] [] ∧ utf8Valid hello = true ∧
    (openTo (.close (some 1000))).program = .close (some 1000) :: [] ∧
    toBigEndian 2 (1000 : BitVec 16).toNat = [0x03, 0xE8] :=
  ⟨⟨quiet_of_none rfl, rfl, rfl, rfl⟩, rfl, rfl, rfl, ready_of_reset_cfg rfl rfl, by decide, takes_of_reset rfl 7,
    .inl ⟨rfl, rfl, by decide⟩, by decide, rfl, by decide⟩

/-- A transport that takes the close frame, and one that fails on its last byte. -/
theorem witness_ProtocolErrorIsClosed :
    let s := withReadError .unexpectedOpcode (reading [] none)
    Quiet s ∧ s.ses.pending = none ∧ s.ses.mustClose = true ∧
    Ready { s with operand := toBigEndian 2 s.cfg.protocolErrorCode.toNat } ∧ Takes s.net 4 ∧
    WriteFails { Transport.reset with txPlan := [.accept 2, .failure] } 4 [2] [] :=
  ⟨quiet_of_none rfl, rfl, rfl, ready_of_reset_cfg rfl rfl, takes_of_reset rfl 4, .inl ⟨rfl, rfl, by decide⟩⟩

/-- The answers, the last two on both sides of READ_CHUNK; a dropped connection; FEED. -/
theorem witness_ReadTakesTransportAnswer :
    AtProgram (openTo .read) ∧ (openTo .read).program = .read :: [] ∧ (openTo .read).ses.framed = true ∧
    (openTo .read).ses.closed = false ∧ (openTo .read).net.down = false ∧ (openTo .read).net.rx = [] ∧
    ({ Transport.reset with rx := [.wouldBlock] } : Transport).rx = .wouldBlock :: [] ∧
    ({ Transport.reset with rx := [.failure] } : Transport).rx = .failure :: [] ∧
    (List.replicate 1024 (0 : Byte)).length ≤ (openTo .read).cfg.readChunk ∧
    (openTo .read).cfg.readChunk < (List.replicate 1025 (0 : Byte)).length ∧
    ({ openTo .read with net := { Transport.reset with down := true } } : State).net.down = true ∧
    AtProgram (openTo (.feed hello)) ∧ (openTo (.feed hello)).program = .feed hello :: [] :=
  ⟨⟨quiet_of_none rfl, rfl, rfl, rfl⟩, rfl, rfl, rfl, rfl, rfl, rfl, rfl, by rw [List.length_replicate]; decide,
    by rw [List.length_replicate]; decide, rfl, ⟨quiet_of_none rfl, rfl, rfl, rfl⟩, rfl⟩

/-- R31, R241: a handshake on a faulted block keeps the buffer the fault left; R225: else it empties it. -/
theorem test_handshakeBuffer :
    let req : HttpRequest := ⟨[], [(keyHeaderName, hello)]⟩
    block (step { faulted [0x81] 0x01 with program := [.handshake req true] }) = some ⟨[0x81], true, 0x01⟩ ∧
    bufferEnteringFramed ⟨[0x81], false, 0x00⟩ = [] := by decide +kernel

/-- With the key, without it, on a dropped connection, and on a faulted block; a header that is no Content-Length. -/
theorem witness_HandshakeEntersFramedMode :
    let req : HttpRequest := ⟨[], [(upgradeText, websocketText), (keyHeaderName, hello)]⟩
    let s := toMake (.handshake req true)
    AtProgram s ∧ s.program = .handshake req true :: [] ∧ s.ses.framed = false ∧
    getHeader keyHeaderName req = some hello ∧ Ready { s with operand := hello } ∧
    hello.length + 36 ≤ 2 ^ 61 - 1 ∧ s.net.down = false ∧ getHeader keyHeaderName ⟨[], []⟩ = none ∧
    ({ s with net := { Transport.reset with down := true } } : State).net.down = true ∧
    (faulted [0x81] 0x01).blk.fault = true ∧ (faulted [0x81] 0x01).blk.cause ≠ 0x03 ∧
    AtProgram { faulted [0x81] 0x01 with program := [.handshake req true] } ∧ upgradeText ≠ contentLengthName :=
  ⟨⟨quiet_of_none rfl, rfl, rfl, rfl⟩, rfl, rfl, by decide, ready_of_reset_cfg rfl rfl, by decide, rfl, by decide, rfl,
    rfl, by decide, ⟨quiet_of_none rfl, rfl, rfl, rfl⟩, by decide⟩

end Sys2Proof.Tests
end

/-! An illegal command word (30_encoding.md R82) has no decoding, so a step that issues one raises ILLEGAL_COMMAND or
answers FAULTED (44_control.md R191). -/

namespace Sys2Proof.Machine

section
variable {cw : BitVec 16}

/-- CMD is CW[15:8] (R74). -/
theorem cmdField_eq (cw : BitVec 16) : cw.extractLsb' 8 8 = BitVec.ofNat 8 (cw.toNat / 256) := by
  apply BitVec.eq_of_toNat_eq
  simp [Nat.shiftRight_eq_div_pow]

/-- IMM is CW[7:0] (R74). -/
theorem immField_toNat (cw : BitVec 16) : (cw.extractLsb' 0 8).toNat = cw.toNat % 256 := by
  simp

theorem withZeroImm_error {imm : Byte} (h : imm.toNat ≠ 0) (i : Instr) :
    withZeroImm imm i = .error .reservedImmediate :=
  if_neg fun h0 => h (by rw [h0]; rfl)

theorem withOpcodeImm_error {imm : Byte} (h : imm.toNat / 16 ≠ 0) (mk : Opcode → Instr) :
    withOpcodeImm imm mk = .error .reservedImmediate := by
  refine if_neg fun h0 => h ?_
  have hhigh := congrArg BitVec.toNat h0
  rw [BitVec.extractLsb'_toNat, Nat.shiftRight_eq_div_pow, BitVec.toNat_ofNat] at hhigh
  omega

/-- R82, first case: a CMD outside R73's nine is reserved. -/
theorem decodeWord_reservedCommand (h : cw.toNat / 256 ∉ [0x02, 0x03, 0x10, 0x20, 0x21, 0x22, 0x30, 0x31, 0x40]) :
    decodeWord cw = .error .reservedCommand := by
  have hlt : cw.toNat / 256 < 256 := by omega
  simp only [List.mem_cons, List.not_mem_nil, or_false, not_or] at h
  simp [decodeWord, cmdField_eq, ← BitVec.toNat_inj, Nat.mod_eq_of_lt hlt, h]

/-- R82, second case: a set IMM bit where the command reserves the whole IMM. -/
theorem decodeWord_reservedImm (hc : cw.toNat / 256 ∈ [0x03, 0x10, 0x20, 0x21, 0x22, 0x40])
    (hi : cw.toNat % 256 ≠ 0) : decodeWord cw = .error .reservedImmediate := by
  rw [← immField_toNat] at hi
  simp only [List.mem_cons, List.not_mem_nil, or_false] at hc
  rcases hc with h | h | h | h | h | h <;> simp [decodeWord, cmdField_eq, h, withZeroImm_error hi]

/-- R82, third case: a set IMM[7:4] bit for FE_HEADER or FE_FRAME. -/
theorem decodeWord_reservedImmHigh (hc : cw.toNat / 256 ∈ [0x30, 0x31]) (hi : cw.toNat % 256 / 16 ≠ 0) :
    decodeWord cw = .error .reservedImmediate := by
  rw [← immField_toNat] at hi
  simp only [List.mem_cons, List.not_mem_nil, or_false] at hc
  rcases hc with h | h <;> simp [decodeWord, cmdField_eq, h, withOpcodeImm_error hi]

/-- Every word R82 lists is ILLEGAL to the decoder. -/
theorem decodeWord_of_illegalWord (h : IllegalWord cw) : ∃ e, decodeWord cw = .error e := by
  rcases h with hcmd | ⟨hcmd, himm⟩ | ⟨hcmd, himm⟩
  · exact ⟨_, decodeWord_reservedCommand hcmd⟩
  · exact ⟨_, decodeWord_reservedImm hcmd himm⟩
  · exact ⟨_, decodeWord_reservedImmHigh hcmd himm⟩

/-- A word that does not decode is handled by R191, whatever its data operand. -/
theorem issue_of_illegalWord (h : IllegalWord cw) (data : List Byte) (s : State) :
    issue cw data s = .next (illegalCommand { s with operand := data }) := by
  obtain ⟨e, he⟩ := decodeWord_of_illegalWord h
  simp only [issue, he]

end

theorem illegalCommand_unfaulted {s : State} (h : s.blk.fault = false) :
    illegalCommand s = withPreciseFault 0x01 s := by
  simp only [illegalCommand, h, Bool.false_eq_true, if_false]
  rfl

theorem illegalCommand_pending {s : State} (h : s.blk.fault = true) : illegalCommand s = withFaulted s := by
  simp only [illegalCommand, h, if_true]
  rfl

/-- Settles O10: the word does not decode, and R191 splits on the pending fault. -/
theorem illegalWordFaults : Obligations.IllegalWordFaults := by
  intro s cw data rest hs hp hcw
  have hstep : step s = .next (illegalCommand { onward s with program := rest, operand := data }) :=
    (step_atProgram hs hp).trans (issue_of_illegalWord hcw data _)
  rw [hstep]
  constructor
  · intro hf
    rw [illegalCommand_unfaulted (by exact hf)]
  · intro hf
    rw [illegalCommand_pending (by exact hf)]

end Sys2Proof.Machine

/-! The bytes `encodeFrame` writes, read back: the key and the payload stand behind the header (10_state.md R25 to R27),
and no proper prefix of them is a frame (30_encoding.md R79). -/

namespace Sys2Proof

/-- Masking again with the same key unmasks (R130). -/
theorem xorMask_xorMask (P K : List Byte) : xorMask (xorMask P K) K = P := by
  refine List.ext_getElem? fun j => ?_
  rw [xorMask_get, xorMask_get]
  cases P[j]? with
  | none => rfl
  | some p => simp

theorem Frame.maskKey_length {f : Frame} {k : List Byte} (hf : f.wf = true) (hk : f.maskKey = some k) :
    k.length = 4 := by
  have hfit : keyFits f.maskKey = true := by
    simp only [Frame.wf, Bool.and_eq_true] at hf
    exact hf.1.1
  simpa [keyFits, hk] using hfit

theorem Frame.masked_eq {f : Frame} (hf : f.wf = true) : f.masked = f.maskKey.isSome := by
  simp only [Frame.wf, Bool.and_eq_true] at hf
  simpa using hf.2

section
variable {rsv : BitVec 3} {form : LenForm} {f : Frame}

/-- The key and the payload follow the length bytes. -/
theorem slice_encodeFrame (a n : Nat) :
    slice (encodeFrame rsv form f) (2 + form.ext + a) n = slice f.body a n := by
  have hdrop : (encodeFrame rsv form f).drop (2 + form.ext) = f.body := by
    rw [encodeFrame_eq, Nat.add_comm, ← List.drop_drop]
    simp
  rw [slice, ← List.drop_drop, hdrop, slice]

theorem maskKeyOf_encodeFrame {k : List Byte} (hf : f.wf = true) (hk : f.maskKey = some k)
    (h : form.holds f.payload.length = true) : maskKeyOf (encodeFrame rsv form f) = k := by
  have hlen := Frame.maskKey_length hf hk
  have hslice := slice_encodeFrame (rsv := rsv) (form := form) (f := f) 0 4
  rw [maskKeyOf, keyOff_encodeFrame h, ← Nat.add_zero (2 + form.ext), hslice]
  simp [slice, Frame.body, hk, ← hlen]

/-- The payload as it stands on the wire, masked where the frame has a key. -/
theorem wirePayload_encodeFrame (hf : f.wf = true) (h : form.holds f.payload.length = true) :
    slice (encodeFrame rsv form f) (hdrLen (encodeFrame rsv form f)) (payloadLen (encodeFrame rsv form f)) =
      f.maskKey.elim f.payload (xorMask f.payload) := by
  rw [hdrLen_encodeFrame h, payloadLen_encodeFrame h, slice_encodeFrame]
  cases hk : f.maskKey with
  | none => simp [slice, Frame.body, hk]
  | some k =>
    have hlen := Frame.maskKey_length hf hk
    have htake : (xorMask f.payload k).take f.payload.length = xorMask f.payload k :=
      List.take_of_length_le (by simp)
    simp [slice, Frame.body, hk, ← hlen, htake]

/-- R27, R106, R107: the record of an encoded frame's bytes is the frame, whatever its RSV bits and length form. -/
theorem frameOf_encodeFrame (hf : f.wf = true) (h : form.holds f.payload.length = true) :
    frameOf (encodeFrame rsv form f) = f := by
  have hmasked := Frame.masked_eq hf
  rw [frameOf, finOf_encodeFrame, opcodeOf_encodeFrame, maskOf_encodeFrame, wirePayload_encodeFrame hf h]
  obtain ⟨fin, opcode, masked, maskKey, payload⟩ := f
  cases maskKey with
  | none => simpa using hmasked.symm
  | some k => simpa [maskKeyOf_encodeFrame hf rfl h, xorMask_xorMask] using hmasked.symm

/-- R79: a proper prefix of an encoded frame is no frame. -/
theorem complete_take_encodeFrame (hf : f.wf = true) (h : form.holds f.payload.length = true) {n : Nat}
    (hn : n < (encodeFrame rsv form f).length) : complete ((encodeFrame rsv form f).take n) = false := by
  rw [← Bool.not_eq_true]
  intro hc
  have hrest : (encodeFrame rsv form f).drop n = [] :=
    complete_append hc (by rw [List.take_append_drop]; exact encodeFrame_complete hf h)
  rw [List.drop_eq_nil_iff] at hrest
  omega

end

end Sys2Proof

/-! FP_PUSH and FP_APPEND once the checks of 60_exceptions.md R243 are passed (40_frame_parser.md R100 to R107). -/

namespace Sys2Proof.Machine

theorem bufferFull_eq_false {cap : Option Nat} {B : List Byte} :
    bufferFull cap B = false ↔ Within (B.length + 1) cap := exceeds_eq_false

theorem exec_fpPush (b : Byte) (s : State) :
    exec (.fpPush b) s = .next (checked operandNotEmpty (pushByte b) s) := rfl

theorem exec_fpAppend (s : State) : exec .fpAppend s = .next (checked operandAny appendSlice s) := rfl

/-- FP_PUSH with every check passed is the byte step (R101). -/
theorem exec_fpPush_ready {s : State} (b : Byte) (hs : Ready s) (hd : s.operand = [])
    (hc : Within (s.blk.buf.length + 1) s.cfg.parserCapacity) :
    exec (.fpPush b) s = .next (fpRespond (fpStep s.blk.buf b).1 1 (fpStep s.blk.buf b).2 s) := by
  have hlen : operandNotEmpty s.operand = false := by rw [hd]; rfl
  rw [exec_fpPush, checked_ready hs hlen, pushByte, bufferFull_eq_false.mpr hc]
  rfl

/-- FP_APPEND answers what its loop took (R102). -/
theorem exec_fpAppend_taken {s : State} {B : List Byte} {k : Nat} {fo : Option Frame} (hs : Ready s)
    (hloop : appendLoop s.cfg.parserCapacity s.blk.buf 0 s.operand = .taken B k fo) :
    exec .fpAppend s = .next (fpRespond B k fo s) := by
  rw [exec_fpAppend, checked_ready hs rfl, appendSlice, hloop]

/-- Settles O12: past the checks FP_PUSH is the byte step, which splits on whether the byte completes the buffer. -/
theorem fpPushTakesByte : Obligations.FpPushTakesByte := by
  intro s b hs hd hc
  rw [exec_fpPush_ready b hs hd hc]
  cases hb : complete (s.blk.buf ++ [b]) with
  | true => rw [fpStep_complete hb]; rfl
  | false => rw [fpStep_gather hb]; rfl

/-- From an empty buffer, FP_APPEND's loop takes an encoded frame whole and emits it: no proper prefix completes, and
the record of the whole is the frame. -/
theorem appendLoop_encodeFrame {cap : Option Nat} {rsv : BitVec 3} {form : LenForm} {f : Frame} (hf : f.wf = true)
    (h : form.holds f.payload.length = true) (hc : Within (encodeFrame rsv form f).length cap) :
    appendLoop cap [] 0 (encodeFrame rsv form f) = .taken [] (encodeFrame rsv form f).length (some f) := by
  have hpos : 0 < (encodeFrame rsv form f).length := by rw [encodeFrame_length hf]; omega
  have hloop := appendLoop_some (cap := cap) (B := []) (k := 0) (d := encodeFrame rsv form f) (by simpa using hc) hpos
    le_rfl (by simpa using encodeFrame_complete hf h) (fun i _ hi => complete_take_encodeFrame hf h hi)
  simpa [frameOf_encodeFrame hf h] using hloop

/-- Settles O17: FP_APPEND's loop gives the frame back, and the buffer is empty again. -/
theorem everyFrameEmitted : Obligations.EveryFrameEmitted := by
  intro s f rsv form hs hbuf hf hform hd hc
  have hloop : appendLoop s.cfg.parserCapacity s.blk.buf 0 s.operand = .taken [] s.operand.length (some f) := by
    rw [hbuf, hd]
    exact appendLoop_encodeFrame hf hform (hd ▸ hc)
  have hblk : ({ s.blk with buf := [] } : Block) = s.blk := by rw [← hbuf]
  rw [exec_fpAppend_taken hs hloop, fpRespond, hblk]
  rfl

end Sys2Proof.Machine

/-! SHA-1: the message schedule, the rounds over it, and the cut of a message into blocks (42_handshake_hasher.md R154,
R155). -/

namespace Sys2Proof.Machine

/-! ### The message schedule (R154) -/

@[simp] theorem blockWords_length (X : List Byte) : (blockWords X).length = 16 := by simp [blockWords]

theorem blockWords_getD (X : List Byte) {t : Nat} (ht : t < 16) :
    (blockWords X).getD t 0 = wordOf (slice X (4 * t) 4) := by
  simp [blockWords, List.getD_eq_getElem?_getD, ht]

theorem extendWords_length (k : Nat) (w : List Word) : (extendWords k w).length = w.length + k := by
  induction k generalizing w with
  | zero => rfl
  | succ k ih => rw [extendWords, ih, List.length_cons, Nat.add_right_comm, Nat.add_assoc]

/-- The words there were stay where they are, oldest first. -/
theorem extendWords_getD_old (k : Nat) {w : List Word} {t : Nat} (ht : t < w.length) :
    (extendWords k w).reverse.getD t 0 = w.reverse.getD t 0 := by
  induction k generalizing w with
  | zero => rfl
  | succ k ih =>
    rw [extendWords, ih (by rw [List.length_cons]; omega), List.reverse_cons,
      List.getD_append _ _ _ _ (by simpa using ht)]

/-- Every word added is the recurrence's, on the words 3, 8, 14 and 16 before it. -/
theorem extendWords_getD_new (k : Nat) {w : List Word} {t : Nat} (hw : 16 ≤ w.length) (hlo : w.length ≤ t)
    (hhi : t < w.length + k) :
    (extendWords k w).reverse.getD t 0 =
      rotl 1 ((extendWords k w).reverse.getD (t - 3) 0 ^^^ (extendWords k w).reverse.getD (t - 8) 0 ^^^
        (extendWords k w).reverse.getD (t - 14) 0 ^^^ (extendWords k w).reverse.getD (t - 16) 0) := by
  induction k generalizing w with
  | zero => omega
  | succ k ih =>
    obtain rfl | hlt := Nat.eq_or_lt_of_le hlo
    · have back (i : Nat) (hi : i < w.length) :
          (extendWords (k + 1) w).reverse.getD (w.length - (i + 1)) 0 = w.getD i 0 := by
        rw [extendWords_getD_old _ (by omega), List.getD_reverse _ (by omega)]
        congr 1
        omega
      rw [back 2 (by omega), back 7 (by omega), back 13 (by omega), back 15 (by omega), extendWords,
        extendWords_getD_old _ (by simp)]
      simp [List.getD_eq_getElem?_getD]
    · exact ih (by rw [List.length_cons]; omega) hlt (by rw [List.length_cons]; omega)

@[simp] theorem schedule_length (X : List Byte) : (schedule X).length = 80 := by
  simp [schedule, extendWords_length]

/-- Settles O24: extending keeps the block's 16 words in front, and each word it adds is the recurrence's. -/
theorem sha1ScheduleRecurrence : Obligations.Sha1ScheduleRecurrence := by
  intro X _
  refine ⟨schedule_length X, fun t ht => ?_, fun t hlo hhi => ?_⟩
  · rw [schedule, extendWords_getD_old _ (by simpa using ht), List.reverse_reverse, blockWords_getD X ht, wordOf]
  · exact extendWords_getD_new 64 (by simp) (by simpa using hlo) (by simpa using hhi)

/-! ### The rounds and the blocks (R155) -/

/-- From round `t` on, the model consumes the rest of the schedule where the rule reads `W[t]` by its number. -/
theorem sha1Rounds_drop (W : List Word) (n : Nat) {t : Nat} (v : Five) (h : t + n = W.length) :
    sha1Rounds t (W.drop t) v = (List.range' t n).foldl (specRound W) v := by
  induction n generalizing t v with
  | zero =>
    rw [List.drop_eq_nil_of_le (by omega)]
    rfl
  | succ n ih =>
    have ht : t < W.length := by omega
    have hround : sha1Round t W[t] v = specRound W v t := by
      rw [specRound, List.getD_eq_getElem _ _ ht]
      rfl
    rw [List.drop_eq_getElem_cons ht, sha1Rounds, ih _ (by omega), hround, List.range'_succ, List.foldl_cons]

theorem sha1Rounds_schedule (X : List Byte) (h : Five) :
    sha1Rounds 0 (schedule X) h = (List.range 80).foldl (specRound (schedule X)) h := by
  rw [List.range_eq_range']
  exact sha1Rounds_drop (schedule X) 80 h (by simp)

/-- Block `j` is the 64 bytes from byte `64 * j` on. -/
theorem blocks64_eq_map_slice (k : Nat) (s : List Byte) :
    blocks64 k s = (List.range k).map fun j => slice s (64 * j) 64 := by
  induction k generalizing s with
  | zero => rfl
  | succ k ih =>
    rw [blocks64, ih, List.range_succ_eq_map, List.map_cons, List.map_map]
    simp [slice, Nat.mul_succ, Nat.add_comm]

/-- Settles O25: the rounds read the schedule word by word, and the blocks are the slices of the padded message. -/
theorem sha1Compression : Obligations.Sha1Compression := by
  constructor
  · intro h X _
    rw [sha1Compress, sha1Rounds_schedule]
  · intro m
    rw [sha1, blocks64_eq_map_slice]

end Sys2Proof.Machine

/-! HH_B64 and base64: each group of three bytes is encoded on its own (42_handshake_hasher.md R157, R162). -/

namespace Sys2Proof.Machine

/-! ### The alphabet -/

section
variable {v : Nat}

theorem b64Char_upper (h : v < 26) : (b64Char v).toNat = 0x41 + v := by
  rw [b64Char, if_pos h, BitVec.toNat_ofNat]
  omega

theorem b64Char_lower (h : v < 26) : (b64Char (26 + v)).toNat = 0x61 + v := by
  rw [b64Char, if_neg (by omega), if_pos (by omega), BitVec.toNat_ofNat]
  omega

theorem b64Char_digit (h : v < 10) : (b64Char (52 + v)).toNat = 0x30 + v := by
  rw [b64Char, if_neg (by omega), if_neg (by omega), if_pos (by omega), BitVec.toNat_ofNat]
  omega

end

/-! ### The groups -/

theorem sextet_eq (v k : Nat) : sextet v k = b64Char (v / 2 ^ k % 64) := by
  rw [sextet, Nat.shiftRight_eq_div_pow, Nat.and_two_pow_sub_one_eq_mod _ 6]

section
variable {g : List Byte}

theorem b64_group_three (h : g.length = 3) :
    b64 g = [b64Char (bigEndian g / 2 ^ 18 % 64), b64Char (bigEndian g / 2 ^ 12 % 64),
      b64Char (bigEndian g / 2 ^ 6 % 64), b64Char (bigEndian g % 64)] := by
  obtain ⟨x, y, z, rfl⟩ := List.length_eq_three.mp h
  simp [b64, sextet_eq]

/-- Two bytes are shifted up by 2 bits, and one pad stands for the missing byte. -/
theorem b64_group_two (h : g.length = 2) :
    b64 g = [b64Char (bigEndian g * 4 / 2 ^ 12 % 64), b64Char (bigEndian g * 4 / 2 ^ 6 % 64),
      b64Char (bigEndian g * 4 % 64), 0x3D] := by
  obtain ⟨x, y, rfl⟩ := List.length_eq_two.mp h
  simp [b64, sextet_eq, b64Pad, Nat.shiftLeft_eq]

/-- One byte is shifted up by 4 bits, and two pads stand for the missing bytes. -/
theorem b64_group_one (h : g.length = 1) :
    b64 g = [b64Char (bigEndian g * 16 / 2 ^ 6 % 64), b64Char (bigEndian g * 16 % 64), 0x3D, 0x3D] := by
  obtain ⟨x, rfl⟩ := List.length_eq_one_iff.mp h
  simp [b64, sextet_eq, b64Pad, Nat.shiftLeft_eq]

end

theorem b64_length (d : List Byte) : (b64 d).length = 4 * ((d.length + 2) / 3) := by
  induction d using b64.induct with
  | case1 => rfl
  | case2 => simp [b64]
  | case3 => simp [b64]
  | case4 x y z rest ih =>
    simp only [b64, List.length_cons, ih]
    omega

/-- The four characters of group `j` are the base64 of its bytes alone. -/
theorem slice_b64 (d : List Byte) {j : Nat} (h : 3 * j < d.length) :
    slice (b64 d) (4 * j) 4 = b64 (slice d (3 * j) 3) := by
  induction d using b64.induct generalizing j with
  | case1 => simp at h
  | case2 x =>
    obtain rfl : j = 0 := by simp only [List.length_cons, List.length_nil] at h; omega
    rfl
  | case3 x y =>
    obtain rfl : j = 0 := by simp only [List.length_cons, List.length_nil] at h; omega
    rfl
  | case4 x y z rest ih =>
    cases j with
    | zero => rfl
    | succ j => exact ih (by simp only [List.length_cons] at h; omega)

theorem slice_length_eq_min (B : List Byte) (a n : Nat) : (slice B a n).length = min n (B.length - a) := by
  simp [slice]

theorem exec_hhB64_ready {s : State} (hs : Ready s) :
    exec .hhB64 s = .next (withOutput (b64 s.operand) s) :=
  congrArg Host.Outcome.next (checked_ready (bad := operandAny) (p := b64Operand) hs rfl)

/-- Settles O27: the output is the base64 of each group alone, and a group has three bytes, or two or one at the end. -/
theorem hhB64Result : Obligations.HhB64Result := by
  refine ⟨fun s hs => ⟨b64 s.operand, exec_hhB64_ready hs, b64_length _, fun j hj => ?_⟩,
    fun v => b64Char_upper, fun v => b64Char_lower, fun v => b64Char_digit, rfl, rfl⟩
  have hlen := slice_length_eq_min s.operand (3 * j) 3
  dsimp only
  rw [slice_b64 _ hj]
  split
  · exact b64_group_three (by omega)
  · split
    · exact b64_group_two (by omega)
    · exact b64_group_one (by omega)

end Sys2Proof.Machine

/-! FE_HEADER and the header function: the spec's header of a length, and of the length 8 operand bytes give
(43_frame_encoder.md R180, R181). -/

namespace Sys2Proof.Machine

/-- Writing out the length of a longer sequence in fewer bytes keeps its low bytes (R9). -/
theorem toBigEndian_bigEndian_append (s t : List Byte) : toBigEndian t.length (bigEndian (s ++ t)) = t := by
  apply toBigEndian_bigEndian
  rw [bigEndian_append, Nat.mul_add_mod_self_right, Nat.mod_eq_of_lt (bigEndian_lt t)]

/-- FIN 1, RSV 000 and a 4-bit opcode share no bit, so byte 0 is their sum (R180). -/
theorem finBit_or_opcode (op : Opcode) : (0x80 : Byte) ||| op.setWidth 8 = BitVec.ofNat 8 (0x80 + op.toNat) := by
  revert op
  decide

theorem feHdr_eq_specHeader (op : Opcode) (L : Nat) : feHdr op L = specHeader op L := by
  rw [feHdr, finBit_or_opcode]
  rfl

/-- The header of the length that 8 bytes give repeats the last byte, the last two, or all 8 of them. -/
theorem specHeader_bigEndian (op : Opcode) {d : List Byte} (hd : d.length = 8) :
    specHeader op (bigEndian d) = BitVec.ofNat 8 (0x80 + op.toNat) ::
      (if bigEndian d < 126 then [d.getD 7 0]
       else if bigEndian d ≤ 0xFFFF then [0x7E, d.getD 6 0, d.getD 7 0]
       else 0x7F :: d) := by
  match d, hd with
  | [b0, b1, b2, b3, b4, b5, b6, b7], _ =>
    have low1 : toBigEndian 1 (bigEndian [b0, b1, b2, b3, b4, b5, b6, b7]) = [b7] :=
      toBigEndian_bigEndian_append [b0, b1, b2, b3, b4, b5, b6] [b7]
    have low2 : toBigEndian 2 (bigEndian [b0, b1, b2, b3, b4, b5, b6, b7]) = [b6, b7] :=
      toBigEndian_bigEndian_append [b0, b1, b2, b3, b4, b5] [b6, b7]
    have all8 : toBigEndian 8 (bigEndian [b0, b1, b2, b3, b4, b5, b6, b7]) = [b0, b1, b2, b3, b4, b5, b6, b7] :=
      toBigEndian_bigEndian_append [] [b0, b1, b2, b3, b4, b5, b6, b7]
    have byte1 : [BitVec.ofNat 8 (bigEndian [b0, b1, b2, b3, b4, b5, b6, b7])] = [b7] := by
      simpa [toBigEndian] using low1
    rw [specHeader, byte1, low2, all8]
    rfl

theorem exec_feHeader_ready {s : State} (op : Opcode) (hs : Ready s) (hd : s.operand.length = 8) :
    exec (.feHeader op) s = .next (withOutput (feHdr op (bigEndian s.operand)) s) :=
  congrArg Host.Outcome.next
    (checked_ready (bad := operandNotEight) (p := headerOperand op) hs (by simp [operandNotEight, hd]))

/-- Settles O28: the header function is the spec's, and a length written out again gives the operand's own bytes. -/
theorem feHeaderResult : Obligations.FeHeaderResult := by
  intro s op hs hd
  refine ⟨?_, feHdr_eq_specHeader op _⟩
  rw [exec_feHeader_ready op hs hd, feHdr_eq_specHeader, specHeader_bigEndian op hd]

end Sys2Proof.Machine

/-! The host's dispatch of an emitted frame: which of the four dispatches an opcode gets, what a data frame does to the
reassembler, and what CLOSE delivers (47_host_consumer.md R203 to R217). -/

namespace Sys2Proof.Machine

/-! ### Data frames (R208 to R214) -/

/-- R210: with a message in progress only CONT is accepted. -/
theorem fragmentAccepted_inProgress {startOp : Option Opcode} {op : Opcode} (h : startOp ≠ none) (hop : op ≠ 0x0) :
    fragmentAccepted startOp op = false := by
  obtain ⟨o, rfl⟩ := Option.ne_none_iff_exists'.mp h
  exact beq_false_of_ne hop

section
variable {op : Opcode} {s : State}

/-- A fragment R210 refuses ends the read, and the reassembler keeps what it holds. -/
theorem dispatchData_refused (h : fragmentAccepted s.ses.asm.startOp op = false) (fin : Bool) (p : List Byte) :
    dispatchData op fin p s = withReadError .unexpectedOpcode s := by
  rw [dispatchData, appendFragment, h]
  rfl

/-- An accepted fragment without FIN is accumulated, under the opcode that started the message. -/
theorem dispatchData_more (h : fragmentAccepted s.ses.asm.startOp op = true) (p : List Byte) :
    dispatchData op false p s = withAssembler (s.ses.asm.acc ++ p) (startOpAfter s.ses.asm.startOp op) s := by
  rw [dispatchData, appendFragment, h]
  rfl

/-- The last fragment of a text: the whole must be valid UTF-8 (R214). -/
theorem dispatchData_finishText (h : fragmentAccepted s.ses.asm.startOp op = true)
    (hop : startOpAfter s.ses.asm.startOp op = some 0x1) (p : List Byte) :
    dispatchData op true p s = finishText (s.ses.asm.acc ++ p) s := by
  rw [dispatchData, appendFragment, h, hop, finishText]
  cases hv : utf8Valid (s.ses.asm.acc ++ p) <;> (simp only [finishMessage, hv]; rfl)

/-- The last fragment of a binary message delivers it. -/
theorem dispatchData_finishBinary (h : fragmentAccepted s.ses.asm.startOp op = true)
    (hop : startOpAfter s.ses.asm.startOp op = some 0x2) (p : List Byte) :
    dispatchData op true p s = withMessage (.binary (s.ses.asm.acc ++ p)) (withAssembler [] none s) := by
  rw [dispatchData, appendFragment, h, hop]
  rfl

end

theorem exec_wireText (fin : Bool) (key : Option (List Byte)) (p : List Byte) (s : State) :
    exec (.wireText fin key p) s = .next (dispatchData 0x1 fin p s) := rfl

theorem exec_wireBinary (fin : Bool) (key : Option (List Byte)) (p : List Byte) (s : State) :
    exec (.wireBinary fin key p) s = .next (dispatchData 0x2 fin p s) := rfl

/-- Settles O44: TEXT is refused while a message is in progress; idle, it is accepted and remembered as 0x1. -/
theorem wireTextResult : Obligations.WireTextResult := by
  intro s fin key p
  rw [exec_wireText]
  refine ⟨fun h => ?_, fun h hfin => ?_, fun h hfin => ?_⟩
  · rw [dispatchData_refused (fragmentAccepted_inProgress h (by decide))]
  · rw [hfin, dispatchData_more (by rw [h]; rfl), h, startOpAfter]
  · rw [hfin, dispatchData_finishText (by rw [h]; rfl) (by rw [h]; rfl)]

/-- Settles O45: BINARY is refused while a message is in progress; idle, it is accepted and remembered as 0x2. -/
theorem wireBinaryResult : Obligations.WireBinaryResult := by
  intro s fin key p
  rw [exec_wireBinary]
  refine ⟨fun h => ?_, fun h hfin => ?_, fun h hfin => ?_⟩
  · rw [dispatchData_refused (fragmentAccepted_inProgress h (by decide))]
  · rw [hfin, dispatchData_more (by rw [h]; rfl), h, startOpAfter]
  · rw [hfin, dispatchData_finishBinary (by rw [h]; rfl) (by rw [h]; rfl)]

/-! ### CLOSE (R205) -/

theorem exec_wireClose (fin : Bool) (key : Option (List Byte)) (p : List Byte) (s : State) :
    exec (.wireClose fin key p) s = .next (dispatchClose p s) := rfl

theorem closeCode_short {p : List Byte} (h : p.length < 2) : closeCode p = none := if_neg (by omega)

/-- Two bytes read big-endian are the bytes side by side. -/
theorem ofNat_bigEndian_two (b0 b1 : Byte) : BitVec.ofNat 16 (bigEndian [b0, b1]) = b0 ++ b1 := by
  apply BitVec.eq_of_toNat_eq
  rw [BitVec.toNat_append, ← Nat.shiftLeft_add_eq_or_of_lt b1.isLt, Nat.shiftLeft_eq, BitVec.toNat_ofNat]
  simp only [bigEndian_cons, bigEndian_nil, List.length_cons, List.length_nil]
  omega

theorem closeCode_cons_cons (b0 b1 : Byte) (rest : List Byte) : closeCode (b0 :: b1 :: rest) = some (b0 ++ b1) := by
  rw [closeCode, if_pos (by simp)]
  exact congrArg some (ofNat_bigEndian_two b0 b1)

/-- Settles O47: the code is `closeCode`'s, which is none below two bytes and the first two bytes otherwise. -/
theorem wireCloseResult : Obligations.WireCloseResult := by
  intro s fin key p
  refine ⟨closeCode p, exec_wireClose fin key p s, closeCode_short, ?_⟩
  rintro b0 b1 rest rfl
  exact closeCode_cons_cons b0 b1 rest

/-! ### Which dispatch an opcode gets (R203) -/

/-- The four dispatches, by opcode: a data frame goes to the reassembler; CLOSE and PING have their own; the rest is
ignored. -/
theorem exec_frame_cases {i : Instr} {f : Frame} (h : i.toFrame = some f) (s : State) :
    (f.opcode.toNat < 8 ∧ exec i s = .next (dispatchData f.opcode f.fin f.payload s)) ∨
      (f.opcode = 0x8 ∧ exec i s = .next (dispatchClose f.payload s)) ∨
      (f.opcode = 0x9 ∧ exec i s = .next (dispatchPing f.payload s)) ∨
      (0xA ≤ f.opcode.toNat ∧ exec i s = .next s) := by
  cases i with
  | wireCont | wireText | wireBinary | wireData3 | wireData4 | wireData5 | wireData6 | wireData7 =>
    cases h
    exact .inl ⟨by simp, rfl⟩
  | wireClose =>
    cases h
    exact .inr (.inl ⟨rfl, rfl⟩)
  | wirePing =>
    cases h
    exact .inr (.inr (.inl ⟨rfl, rfl⟩))
  | wirePong | wireCtrlB | wireCtrlC | wireCtrlD | wireCtrlE | wireCtrlF =>
    cases h
    exact .inr (.inr (.inr ⟨by simp, rfl⟩))
  | _ => cases h

/-- A send leaves the session alone, whether or not its write succeeds. -/
theorem sendFrame_ses (op : Opcode) (p : List Byte) (s : State) : (sendFrame op p s).1.ses = s.ses := by
  obtain ⟨t, heff, hsend, -, -⟩ := sendFrame_spec op p s
  obtain ⟨-, -, hses, -, -, -⟩ := heff.host
  rw [hsend]
  exact hses

@[simp] theorem ioFailure_ses_asm (s : State) : (ioFailure s).ses.asm = s.ses.asm := rfl

/-- A PING leaves the reassembler alone, also where its pong fails (R217). -/
theorem dispatchPing_ses_asm (p : List Byte) (s : State) : (dispatchPing p s).ses.asm = s.ses.asm := by
  rw [dispatchPing]
  split
  · rw [sendFrame_ses]
  · rw [ioFailure_ses_asm, sendFrame_ses]

/-- Settles O51: of the four dispatches only a data frame's touches the reassembler, and its opcode is below 8. -/
theorem controlFramesLeaveAssembler : Obligations.ControlFramesLeaveAssembler := by
  intro s t i f hf hop ht
  obtain ⟨hdata, -⟩ | ⟨-, e⟩ | ⟨-, e⟩ | ⟨-, e⟩ := exec_frame_cases hf s
  · omega
  all_goals
    rw [e] at ht
    cases ht
  · rfl
  · exact dispatchPing_ses_asm f.payload s
  · rfl

/-- Settles O49: the six constructors share the dispatch that does nothing. -/
theorem wireIgnoredResult : Obligations.WireIgnoredResult := by
  intro s fin key p i hi
  simp only [List.mem_cons, List.not_mem_nil, or_false] at hi
  obtain rfl | rfl | rfl | rfl | rfl | rfl := hi <;> rfl

end Sys2Proof.Machine

/-! UTF-8: `utf8_valid` takes one character of the nine byte patterns after another (47_host_consumer.md R216). -/

namespace Sys2Proof.Machine

/-! ### Patterns -/

@[simp] theorem byteIn_iff {lo hi : Nat} {b : Byte} : byteIn lo hi b = true ↔ lo ≤ b.toNat ∧ b.toNat ≤ hi := by
  simp [byteIn]

section
variable {b : Byte} {c : List Byte} {r : Nat × Nat} {p : List (Nat × Nat)}

@[simp] theorem fitsPattern_nil_nil : FitsPattern [] [] := by simp [FitsPattern]

@[simp] theorem not_fitsPattern_nil_cons : ¬ FitsPattern [] (r :: p) := fun h => nomatch h.1

@[simp] theorem not_fitsPattern_cons_nil : ¬ FitsPattern (b :: c) [] := fun h => nomatch h.1

@[simp] theorem fitsPattern_cons_cons :
    FitsPattern (b :: c) (r :: p) ↔ byteIn r.1 r.2 b = true ∧ FitsPattern c p := by
  rw [byteIn_iff]
  constructor
  · rintro ⟨hlen, h⟩
    exact ⟨h 0 b r rfl rfl, Nat.succ.inj hlen, fun i => h (i + 1)⟩
  · rintro ⟨hb, hlen, h⟩
    refine ⟨congrArg Nat.succ hlen, fun i x q hx hq => ?_⟩
    cases i with
    | zero =>
      cases hx
      cases hq
      exact hb
    | succ i => exact h i x q hx hq

end

/-- A character of one of the nine patterns. -/
def Utf8Char (c : List Byte) : Prop := ∃ p ∈ utf8Patterns, FitsPattern c p

section
variable {a b c d : Byte}

theorem not_utf8Char_nil : ¬ Utf8Char [] := by simp [Utf8Char, utf8Patterns]

theorem utf8Char_one : Utf8Char [a] ↔ byteIn 0x00 0x7F a = true := by simp [Utf8Char, utf8Patterns]

theorem utf8Char_two : Utf8Char [a, b] ↔ utf8Two a b = true := by simp [Utf8Char, utf8Patterns, utf8Two]

theorem utf8Char_three : Utf8Char [a, b, c] ↔ utf8Three a b c = true := by
  simp [Utf8Char, utf8Patterns, utf8Three, or_and_right, exists_or, and_assoc, or_assoc]

theorem utf8Char_four : Utf8Char [a, b, c, d] ↔ utf8Four a b c d = true := by
  simp [Utf8Char, utf8Patterns, utf8Four, or_and_right, exists_or, and_assoc, or_assoc]

theorem not_utf8Char_long (rest : List Byte) (e : Byte) : ¬ Utf8Char (a :: b :: c :: d :: e :: rest) := by
  simp [Utf8Char, utf8Patterns]

/-! ### The first byte says how long a character is -/

theorem utf8Two_lead (h : utf8Two a b = true) : 0xC2 ≤ a.toNat ∧ a.toNat ≤ 0xDF := by
  simp only [utf8Two, Bool.and_eq_true, byteIn_iff] at h
  exact h.1

theorem utf8Three_lead (h : utf8Three a b c = true) : 0xE0 ≤ a.toNat ∧ a.toNat ≤ 0xEF := by
  simp only [utf8Three, Bool.and_eq_true, Bool.or_eq_true, byteIn_iff] at h
  omega

theorem utf8Four_lead (h : utf8Four a b c d = true) : 0xF0 ≤ a.toNat := by
  simp only [utf8Four, Bool.and_eq_true, Bool.or_eq_true, byteIn_iff] at h
  omega

end

/-! ### `utf8_valid` -/

@[simp] theorem utf8Go_nil (n : Nat) : utf8Go n [] = true := by rw [utf8Go]

/-- The check steps over a character at the front: its first byte rules out the shorter forms, tried before its own. -/
theorem utf8Go_char_append {ch : List Byte} (h : Utf8Char ch) (n : Nat) (rest : List Byte) :
    utf8Go (n + 1) (ch ++ rest) = utf8Go n rest := by
  match ch with
  | [] => exact absurd h not_utf8Char_nil
  | [a] => simp only [List.cons_append, List.nil_append, utf8Go, utf8Char_one.mp h, if_true]
  | [a, b] =>
    have h2 := utf8Char_two.mp h
    have lead := utf8Two_lead h2
    have h1 : ¬ byteIn 0x00 0x7F a = true := by rw [byteIn_iff]; omega
    simp only [List.cons_append, List.nil_append, utf8Go, h1, h2, Bool.false_eq_true, if_true, if_false]
  | [a, b, c] =>
    have h3 := utf8Char_three.mp h
    have lead := utf8Three_lead h3
    have h1 : ¬ byteIn 0x00 0x7F a = true := by rw [byteIn_iff]; omega
    have h2 : ¬ utf8Two a b = true := fun h2 => by have := utf8Two_lead h2; omega
    simp only [List.cons_append, List.nil_append, utf8Go, h1, h2, h3, Bool.false_eq_true, if_true, if_false]
  | [a, b, c, d] =>
    have h4 := utf8Char_four.mp h
    have lead := utf8Four_lead h4
    have h1 : ¬ byteIn 0x00 0x7F a = true := by rw [byteIn_iff]; omega
    have h2 : ¬ utf8Two a b = true := fun h2 => by have := utf8Two_lead h2; omega
    have h3 : ¬ utf8Three a b c = true := fun h3 => by have := utf8Three_lead h3; omega
    simp only [List.cons_append, List.nil_append, utf8Go, h1, h2, h3, h4, Bool.false_eq_true, if_false,
      Bool.true_and]
  | a :: b :: c :: d :: e :: ch => exact absurd h (not_utf8Char_long ch e)

/-- Where the check succeeds on a byte, a character starts there, and the check succeeds behind it. -/
theorem utf8Char_of_utf8Go {n : Nat} {a : Byte} {s : List Byte} (h : utf8Go (n + 1) (a :: s) = true) :
    ∃ ch rest, a :: s = ch ++ rest ∧ Utf8Char ch ∧ utf8Go n rest = true := by
  unfold utf8Go at h
  split at h
  case isTrue h1 => exact ⟨[a], s, rfl, utf8Char_one.mpr h1, h⟩
  split at h
  case h_1 => cases h
  next b s =>
  split at h
  case isTrue h2 => exact ⟨[a, b], s, rfl, utf8Char_two.mpr h2, h⟩
  split at h
  case h_1 => cases h
  next c s =>
  split at h
  case isTrue h3 => exact ⟨[a, b, c], s, rfl, utf8Char_three.mpr h3, h⟩
  split at h
  case h_1 => cases h
  next d s =>
  obtain ⟨h4, hrest⟩ := (Bool.and_eq_true _ _).mp h
  exact ⟨[a, b, c, d], s, rfl, utf8Char_four.mpr h4, hrest⟩

/-- What the check accepts is a sequence of characters. -/
theorem exists_chars_of_utf8Go {n : Nat} {s : List Byte} (h : utf8Go n s = true) :
    ∃ cs : List (List Byte), s = cs.flatten ∧ ∀ c ∈ cs, Utf8Char c := by
  induction n generalizing s with
  | zero =>
    cases s with
    | nil => exact ⟨[], rfl, by simp⟩
    | cons a s => cases h
  | succ n ih =>
    cases s with
    | nil => exact ⟨[], rfl, by simp⟩
    | cons a s =>
      obtain ⟨ch, rest, hs, hch, hrest⟩ := utf8Char_of_utf8Go h
      obtain ⟨cs, rfl, hcs⟩ := ih hrest
      exact ⟨ch :: cs, hs, List.forall_mem_cons.mpr ⟨hch, hcs⟩⟩

/-- The check accepts every sequence of characters, with fuel for its bytes: each character has at least one. -/
theorem utf8Go_flatten {cs : List (List Byte)} {n : Nat} (h : ∀ c ∈ cs, Utf8Char c) (hn : cs.flatten.length ≤ n) :
    utf8Go n cs.flatten = true := by
  induction cs generalizing n with
  | nil => exact utf8Go_nil n
  | cons ch cs ih =>
    obtain ⟨hch, hcs⟩ := List.forall_mem_cons.mp h
    have hpos : 0 < ch.length := List.length_pos_of_ne_nil fun e => not_utf8Char_nil (e ▸ hch)
    rw [List.flatten_cons, List.length_append] at hn
    obtain ⟨m, rfl⟩ : ∃ m, n = m + 1 := ⟨n - 1, by omega⟩
    rw [List.flatten_cons, utf8Go_char_append hch]
    exact ih hcs (by omega)

/-- Settles O54: the check takes a character at a time, and its fuel is the number of bytes. -/
theorem utf8ValidIsThePatterns : Obligations.Utf8ValidIsThePatterns := by
  intro s
  constructor
  · exact exists_chars_of_utf8Go
  · rintro ⟨cs, rfl, hcs⟩
    exact utf8Go_flatten hcs le_rfl

end Sys2Proof.Machine

/-! Decoding and encoding undo each other: command words field by field, frames in every format; and a command word
decodes exactly where a row of the opcode table matches it (30_encoding.md R71 to R81). -/

namespace Sys2Proof

/-! ### Command words (R71 to R74) -/

/-- A word is its high bits beside its low bits. -/
theorem append_extractLsb'_self {n m : Nat} (x : BitVec (n + m)) : x.extractLsb' m n ++ x.extractLsb' 0 m = x := by
  rw [BitVec.extractLsb'_append_extractLsb'_eq_extractLsb' (by omega), BitVec.extractLsb'_eq_self]

/-- The nine commands: each is what its own word decodes to. -/
theorem decode_encode_of_command {i : Instr} (hi : i.toFrame = none) : decode (encode i) = .ok i := by
  cases i with
  | fpPush b => revert b; decide
  | feHeader op => revert op; decide
  | feFrame op => revert op; decide
  | fpAppend | mxXor | hhAccept | hhSha1 | hhB64 | rdStatus => rfl
  | _ => cases hi

theorem encode_of_toFrame {i : Instr} {f : Frame} (h : i.toFrame = some f) :
    encode i = .frame (encodeFrame 0 (shortestForm f.payload.length) f) := by
  cases i <;> cases h <;> rfl

theorem withZeroImm_eq_ok {imm : Byte} {i j : Instr} : withZeroImm imm i = .ok j ↔ imm = 0 ∧ i = j := by
  unfold withZeroImm
  split
  case isTrue h => simp [h]
  case isFalse h => simp only [reduceCtorEq, h, false_and]

theorem withOpcodeImm_eq_ok {imm : Byte} {mk : Opcode → Instr} {j : Instr} :
    withOpcodeImm imm mk = .ok j ↔ imm = 0#4 ++ imm.extractLsb' 0 4 ∧ mk (imm.extractLsb' 0 4) = j := by
  have hsplit := append_extractLsb'_self (n := 4) (m := 4) imm
  have hzero : imm.extractLsb' 4 4 = 0#4 ↔ imm = 0#4 ++ imm.extractLsb' 0 4 := by
    rw [← BitVec.append_left_inj (imm.extractLsb' 0 4), hsplit]
  by_cases h : imm.extractLsb' 4 4 = 0#4 <;> simp [withOpcodeImm, h, ← hzero]

/-- A word that decodes is its instruction's own word: CMD is the command's, and the reserved IMM bits are 0. -/
theorem encode_of_decodeWord {cw : BitVec 16} {i : Instr} (h : decodeWord cw = .ok i) : encode i = .word cw := by
  have hcw := append_extractLsb'_self (n := 8) (m := 8) cw
  unfold decodeWord at h
  dsimp only at h
  split at h
  case isTrue hcmd =>
    cases h
    rw [hcmd] at hcw
    exact congrArg Encoded.word hcw
  iterate 5
    split at h
    case isTrue hcmd =>
      obtain ⟨himm, rfl⟩ := withZeroImm_eq_ok.mp h
      rw [← hcw, hcmd, himm]
      rfl
  iterate 2
    split at h
    case isTrue hcmd =>
      obtain ⟨himm, rfl⟩ := withOpcodeImm_eq_ok.mp h
      rw [← hcw, hcmd, himm]
      generalize (cw.extractLsb' 0 8).extractLsb' 0 4 = op
      revert op
      decide
  split at h
  case isTrue hcmd =>
    obtain ⟨himm, rfl⟩ := withZeroImm_eq_ok.mp h
    rw [← hcw, hcmd, himm]
    rfl
  case isFalse => cases h

theorem decodeWord_eq_ok_iff {cw : BitVec 16} {i : Instr} : decodeWord cw = .ok i ↔ encode i = .word cw := by
  refine ⟨encode_of_decodeWord, fun h => ?_⟩
  have hi : i.toFrame = none := by
    cases hf : i.toFrame with
    | none => rfl
    | some f => rw [encode_of_toFrame hf] at h; cases h
  have hdec := decode_encode_of_command hi
  rwa [h] at hdec

/-- Only commands are encoded in words. -/
theorem toFrame_of_decodeWord {cw : BitVec 16} {i : Instr} (h : decodeWord cw = .ok i) : i.toFrame = none := by
  cases hf : i.toFrame with
  | none => rfl
  | some f => rw [decodeWord_eq_ok_iff, encode_of_toFrame hf] at h; cases h

/-- Settles O3: decoding reads the fields the encoder wrote, and refuses every other word. -/
theorem commandWordsRoundTrip : Obligations.CommandWordsRoundTrip := fun _ _ => decodeWord_eq_ok_iff

/-! ### Frames (R75 to R81) -/

theorem shortestForm_holds {L : Nat} (h : L < 2 ^ 64) : (shortestForm L).holds L = true := by
  unfold shortestForm
  split
  · simpa [LenForm.holds]
  · split <;> simp [LenForm.holds] <;> omega

theorem Frame.payload_length_lt {f : Frame} (hf : f.wf = true) : f.payload.length < 2 ^ 64 := by
  simp only [Frame.wf, Bool.and_eq_true] at hf
  simpa [payloadFits] using hf.1.2

theorem instrOfFrame_of_toFrame {i : Instr} {f : Frame} (h : i.toFrame = some f) : instrOfFrame f = i := by
  cases i <;> cases h <;> rfl

theorem Instr.wf_of_toFrame {i : Instr} {f : Frame} (h : i.toFrame = some f) : i.wf = f.wf := by
  rw [Instr.wf, h]

section
variable {rsv : BitVec 3} {form : LenForm} {f : Frame}

theorem decodeFrame_encodeFrame (hf : f.wf = true) (h : form.holds f.payload.length = true) :
    decodeFrame (encodeFrame rsv form f) = .ok (instrOfFrame f) := by
  rw [decodeFrame, if_pos (encodeFrame_complete hf h), frameOf_encodeFrame hf h]

theorem decodeFrame_take_encodeFrame (hf : f.wf = true) (h : form.holds f.payload.length = true) {n : Nat}
    (hn : n < (encodeFrame rsv form f).length) :
    decodeFrame ((encodeFrame rsv form f).take n) = .error .incompleteFrame := by
  have hlen : ((encodeFrame rsv form f).take n).length = n := by rw [List.length_take]; omega
  have hends : n < keyOff ((encodeFrame rsv form f).take n) ∨ n < total ((encodeFrame rsv form f).take n) := by
    rcases Nat.lt_or_ge n (keyOff ((encodeFrame rsv form f).take n)) with hk | hk
    · exact .inl hk
    · have htotal := total_append (B := (encodeFrame rsv form f).take n) ((encodeFrame rsv form f).drop n)
        (by rwa [hlen])
      rw [List.take_append_drop, ← ((complete_iff _).mp (encodeFrame_complete hf h)).2.2] at htotal
      exact .inr (by omega)
  rw [decodeFrame, complete_take_encodeFrame hf h hn, if_neg (by simp), if_pos (by rw [hlen]; exact .inr hends)]

theorem decodeFrame_encodeFrame_append (hf : f.wf = true) (h : form.holds f.payload.length = true)
    {extra : List Byte} (hextra : extra ≠ []) :
    decodeFrame (encodeFrame rsv form f ++ extra) = .error .bytesAfterFrame := by
  have hc := encodeFrame_complete (rsv := rsv) hf h
  have hnc : ¬ complete (encodeFrame rsv form f ++ extra) = true := fun hc' => hextra (complete_append hc hc')
  obtain ⟨h2, hk, ht⟩ := (complete_iff _).mp hc
  rw [decodeFrame, if_neg hnc, if_neg]
  rw [keyOff_append _ h2, total_append _ hk, List.length_append]
  omega

end

/-- Settles O5: every format is complete, and its record is the frame. -/
theorem everyFrameFormatDecodes : Obligations.EveryFrameFormatDecodes := by
  intro i f rsv form hi hf hform
  rw [Instr.wf_of_toFrame hf] at hi
  rw [← instrOfFrame_of_toFrame hf]
  exact decodeFrame_encodeFrame hi hform

/-- Settles O4: a command's word gives it back, and so does the shortest format of its frame. -/
theorem instructionsRoundTrip : Obligations.InstructionsRoundTrip := by
  intro i hi
  cases hf : i.toFrame with
  | none => exact decode_encode_of_command hf
  | some f =>
    have hwf : f.wf = true := by rwa [Instr.wf_of_toFrame hf] at hi
    rw [encode_of_toFrame hf]
    exact everyFrameFormatDecodes i f 0 _ hi hf (shortestForm_holds (Frame.payload_length_lt hwf))

/-- Settles O6: fewer bytes miss header or payload bytes, and a longer sequence passes the frame's total. -/
theorem frameEndsByCountAlone : Obligations.FrameEndsByCountAlone :=
  fun _ _ _ hf hform =>
    ⟨fun _ hn => decodeFrame_take_encodeFrame hf hform hn,
      fun _ hextra => decodeFrame_encodeFrame_append hf hform hextra⟩

/-- Settles O1: the decoder run on each word and on each frame. -/
theorem knownWordsDecode : Obligations.KnownWordsDecode := by
  unfold Obligations.KnownWordsDecode
  and_intros <;> rfl

/-! ### The opcode table (R74) -/

/-- A word that carries a row's value under a mask of its high bits has that value as its high bits. -/
theorem eq_append_of_and_mask {n m : Nat} {x : BitVec (n + m)} {v : BitVec n}
    (h : x.toNat &&& (BitVec.allOnes n ++ 0#m).toNat = (v ++ 0#m).toNat) : x = v ++ x.extractLsb' 0 m := by
  have hx := append_extractLsb'_self x
  rw [← BitVec.toNat_and, BitVec.toNat_inj] at h
  conv at h => lhs; lhs; rw [← hx]
  rw [BitVec.and_append, BitVec.and_allOnes, BitVec.and_zero, BitVec.append_left_inj] at h
  rw [← h, hx]

theorem eq_of_and_ffff {cw : BitVec 16} {v : Nat} (h : cw.toNat &&& 0xFFFF = v) : cw = BitVec.ofNat 16 v := by
  rw [← h, Nat.and_two_pow_sub_one_of_lt_two_pow (n := 16) cw.isLt]
  simp

theorem tableNumber_encode_and_mask {i : Instr} (hi : i.toFrame = none) :
    tableNumber (encode i) &&& (tableRow i).mask = (tableRow i).value := by
  cases i with
  | fpPush b => exact Laws.TableRow.fpPush b
  | fpAppend => exact Laws.TableRow.fpAppend
  | mxXor => exact Laws.TableRow.mxXor
  | hhAccept => exact Laws.TableRow.hhAccept
  | hhSha1 => exact Laws.TableRow.hhSha1
  | hhB64 => exact Laws.TableRow.hhB64
  | feHeader op => exact Laws.TableRow.feHeader op
  | feFrame op => exact Laws.TableRow.feFrame op
  | rdStatus => exact Laws.TableRow.rdStatus
  | _ => cases hi

/-- A command row matches a word exactly where the word decodes to an instruction of that row. -/
theorem commandRow_matches_iff {cw : BitVec 16} {r : TableRow} (hr : r ∈ commandRows) :
    cw.toNat &&& r.mask = r.value ↔ ∃ i, decodeWord cw = .ok i ∧ tableRow i = r := by
  constructor
  · intro h
    simp only [decodeWord_eq_ok_iff]
    simp only [commandRows, List.mem_cons, List.not_mem_nil, or_false] at hr
    obtain rfl | rfl | rfl | rfl | rfl | rfl | rfl | rfl | rfl := hr
    · have hcw := eq_append_of_and_mask (n := 8) (m := 8) (v := 0x02) h
      exact ⟨.fpPush _, congrArg Encoded.word hcw.symm, rfl⟩
    · exact ⟨.fpAppend, congrArg Encoded.word (eq_of_and_ffff h).symm, rfl⟩
    · exact ⟨.mxXor, congrArg Encoded.word (eq_of_and_ffff h).symm, rfl⟩
    · exact ⟨.hhAccept, congrArg Encoded.word (eq_of_and_ffff h).symm, rfl⟩
    · exact ⟨.hhSha1, congrArg Encoded.word (eq_of_and_ffff h).symm, rfl⟩
    · exact ⟨.hhB64, congrArg Encoded.word (eq_of_and_ffff h).symm, rfl⟩
    · have hcw := eq_append_of_and_mask (n := 12) (m := 4) (v := 0x300) h
      exact ⟨.feHeader _, congrArg Encoded.word hcw.symm, rfl⟩
    · have hcw := eq_append_of_and_mask (n := 12) (m := 4) (v := 0x310) h
      exact ⟨.feFrame _, congrArg Encoded.word hcw.symm, rfl⟩
    · exact ⟨.rdStatus, congrArg Encoded.word (eq_of_and_ffff h).symm, rfl⟩
  · rintro ⟨i, hi, rfl⟩
    have hrow := tableNumber_encode_and_mask (toFrame_of_decodeWord hi)
    rwa [encode_of_decodeWord hi] at hrow

theorem tableRow_mem_commandRows {i : Instr} (hi : i.toFrame = none) : tableRow i ∈ commandRows := by
  cases i with
  | fpPush | fpAppend | mxXor | hhAccept | hhSha1 | hhB64 | feHeader | feFrame | rdStatus =>
    simp [tableRow, commandRows]
  | _ => cases hi

/-- Settles O2: a row matches where the word decodes to its instruction; no row is in the table twice. -/
theorem decodeFollowsOpcodeTable : Obligations.DecodeFollowsOpcodeTable := by
  intro cw
  split
  case h_1 i hi =>
    have hmem := tableRow_mem_commandRows (toFrame_of_decodeWord hi)
    have hrow (r : TableRow) (hr : r ∈ commandRows) : (cw.toNat &&& r.mask == r.value) = (r == tableRow i) := by
      rw [Bool.eq_iff_iff, beq_iff_eq, beq_iff_eq, commandRow_matches_iff hr]
      simp [hi, eq_comm]
    rw [List.filter_congr hrow, List.filter_beq, List.count_eq_one_of_mem (by decide) hmem]
    rfl
  case h_2 e he =>
    rw [List.filter_eq_nil_iff]
    intro r hr
    rw [beq_iff_eq, commandRow_matches_iff hr]
    simp [he]

end Sys2Proof

/-! FE's output as an encoded frame (43_frame_encoder.md R180 to R185). -/

namespace Sys2Proof.Machine

theorem feLength_eq_lengthBytes (L : Nat) : feLength L = lengthBytes false (shortestForm L) L := by
  unfold feLength shortestForm
  split
  case isTrue hL =>
    have hbyte : BitVec.ofNat 8 L = headerByte1 false (BitVec.ofNat 7 L) := by
      apply BitVec.eq_of_toNat_eq
      rw [headerByte1, BitVec.toNat_append]
      simp
      omega
    rw [hbyte, lengthBytes]
  case isFalse =>
    split <;> rfl

theorem headerByte0_final (op : Opcode) : headerByte0 true 0 op = 0x80 ||| op.setWidth 8 := by
  revert op
  decide

/-- The unmasked, unfragmented frame of an opcode and a payload. -/
def outboundFrame (op : Opcode) (P : List Byte) : Frame :=
  { fin := true, opcode := op, masked := false, maskKey := none, payload := P }

section
variable (op : Opcode) {P : List Byte}

theorem outboundFrame_wf (hP : P.length < 2 ^ 64) : (outboundFrame op P).wf = true := by
  have hfits : payloadFits P = true := decide_eq_true hP
  simp [Frame.wf, outboundFrame, keyFits, hfits]

theorem feHdr_append_eq_encodeFrame (P : List Byte) :
    feHdr op P.length ++ P = encodeFrame 0 (shortestForm P.length) (outboundFrame op P) := by
  rw [feHdr, feLength_eq_lengthBytes, ← headerByte0_final]
  rfl

/-- No form that holds a length has fewer extended-length bytes than the shortest. -/
theorem shortestForm_ext_le {L : Nat} {form : LenForm} (h : form.holds L = true) :
    (shortestForm L).ext ≤ form.ext := by
  cases form with
  | h2 => simp only [LenForm.holds, decide_eq_true_eq] at h; simp [shortestForm, h]
  | h4 =>
    simp only [LenForm.holds, decide_eq_true_eq] at h
    unfold shortestForm
    split
    · decide
    · rw [if_pos (by omega)]
  | h10 => cases shortestForm L <;> decide

end

/-- Settles O30: FE's output is the frame in the shortest form, and a longer form has more length bytes. -/
theorem feOutputIsShortestFormat : Obligations.FeOutputIsShortestFormat := by
  intro op P hP
  have hwf := outboundFrame_wf op (P := P) (by omega)
  refine ⟨feHdr_append_eq_encodeFrame op P, fun rsv form hform => ?_⟩
  have hext := shortestForm_ext_le hform
  have hlen := encodeFrame_length (rsv := rsv) (form := form) hwf
  have hlen0 := encodeFrame_length (rsv := 0) (form := shortestForm P.length) hwf
  rw [feHdr_append_eq_encodeFrame, hlen0]
  exact le_of_le_of_eq (by omega) hlen.symm

end Sys2Proof.Machine

/-! A byte stream fed to FP: what it emits and leaves is a function of the buffer and the bytes alone, however the
stream is cut (40_frame_parser.md R100 to R105, 43_frame_encoder.md R186). -/

namespace Sys2Proof.Machine

/-! ### The stream, one byte at a time (R100) -/

/-- The frames a buffer emits as the bytes of a stream join it. -/
def emitted : List Byte → List Byte → List Frame
  | _, [] => []
  | B, b :: T => (fpStep B b).2.toList ++ emitted (fpStep B b).1 T

/-- Each byte of a stream joins a gathered buffer within the capacity. -/
def StreamFits (cap : Option Nat) (B T : List Byte) : Prop :=
  ∀ n, n < T.length → Within ((gather B (T.take n)).length + 1) cap

section
variable {cap : Option Nat} {B S T : List Byte} {b : Byte}

@[simp] theorem gather_nil : gather B [] = B := rfl

@[simp] theorem gather_cons : gather B (b :: T) = gather (fpStep B b).1 T := rfl

theorem gather_append : gather B (S ++ T) = gather (gather B S) T := List.foldl_append

theorem emitted_append : emitted B (S ++ T) = emitted B S ++ emitted (gather B S) T := by
  induction S generalizing B with
  | nil => rfl
  | cons b S ih => simp [emitted, ih]

theorem streamFits_nil : StreamFits cap B [] := fun _ hn => absurd hn (Nat.not_lt_zero _)

theorem streamFits_cons :
    StreamFits cap B (b :: T) ↔ Within (B.length + 1) cap ∧ StreamFits cap (fpStep B b).1 T := by
  constructor
  · intro h
    exact ⟨h 0 (by simp), fun n hn => h (n + 1) (by simpa using hn)⟩
  · rintro ⟨h0, hT⟩ n hn
    cases n with
    | zero => exact h0
    | succ n => exact hT n (by simpa using hn)

theorem streamFits_append :
    StreamFits cap B (S ++ T) ↔ StreamFits cap B S ∧ StreamFits cap (gather B S) T := by
  induction S generalizing B with
  | nil => simp [streamFits_nil]
  | cons b S ih => rw [List.cons_append, streamFits_cons, ih, streamFits_cons, gather_cons, and_assoc]

theorem StreamFits.dropLast (h : StreamFits cap B T) : StreamFits cap B T.dropLast := by
  intro n hn
  rw [List.length_dropLast] at hn
  rw [List.dropLast_eq_take, List.take_take, min_eq_left (by omega)]
  exact h n (by omega)

/-- Bytes that complete no frame stay in the buffer, and nothing is emitted. -/
theorem stream_of_incomplete (h : ∀ j, 0 < j → j ≤ T.length → complete (B ++ T.take j) = false) :
    gather B T = B ++ T ∧ emitted B T = [] := by
  induction T generalizing B with
  | nil => simp [emitted]
  | cons b T ih =>
    have hb : complete (B ++ [b]) = false := h 1 Nat.one_pos (by simp)
    have hT := ih (B := B ++ [b]) fun j hj hl => by simpa using h (j + 1) j.succ_pos (by simpa using hl)
    simpa [emitted, fpStep_gather hb] using hT

/-- The loop stops with the byte that completes a frame (R103). -/
theorem appendLoop_cons_complete {k : Nat} (hb : Within (B.length + 1) cap) (hc : complete (B ++ [b]) = true) :
    appendLoop cap B k (b :: T) = .taken [] (k + 1) (some (frameOf (B ++ [b]))) := by
  simp [appendLoop, bufferFull_eq_false.mpr hb, fpStep_complete hc]

/-- The loop goes on behind a byte that completes none. -/
theorem appendLoop_cons_gather {k : Nat} (hb : Within (B.length + 1) cap) (hc : complete (B ++ [b]) = false) :
    appendLoop cap B k (b :: T) = appendLoop cap (B ++ [b]) (k + 1) T := by
  simp [appendLoop, bufferFull_eq_false.mpr hb, fpStep_gather hc]

/-- The loop of FP_APPEND is the stream up to its first frame: it takes a byte where there is one. -/
theorem appendLoop_stream {d : List Byte} {k : Nat} (h : StreamFits cap B d) :
    ∃ j fo, j ≤ d.length ∧ (d ≠ [] → 0 < j) ∧
      appendLoop cap B k d = .taken (gather B (d.take j)) (k + j) fo ∧ emitted B (d.take j) = fo.toList := by
  induction d generalizing B k with
  | nil => exact ⟨0, none, le_rfl, fun h => absurd rfl h, rfl, rfl⟩
  | cons b d ih =>
    obtain ⟨hb, hd⟩ := streamFits_cons.mp h
    cases hc : complete (B ++ [b]) with
    | true =>
      exact ⟨1, some (frameOf (B ++ [b])), by simp, by simp,
        by simp [appendLoop_cons_complete hb hc, fpStep_complete hc], by simp [emitted, fpStep_complete hc]⟩
    | false =>
      rw [fpStep_gather hc] at hd
      obtain ⟨j, fo, hj, -, htaken, hemit⟩ := ih (k := k + 1) hd
      exact ⟨j + 1, fo, by simpa using hj, by simp,
        by simp [appendLoop_cons_gather hb hc, htaken, fpStep_gather hc, Nat.add_assoc, Nat.add_comm 1],
        by simpa [emitted, fpStep_gather hc] using hemit⟩

end

/-! ### The stream fed to the block (R105) -/

theorem ready_operand {s : State} {d : List Byte} (hf : s.blk.fault = false) (hd : Within d.length s.cfg.dataCapacity) :
    Ready { s with operand := d } := ⟨hf, hd⟩

theorem within_zero (bound : Option Nat) : Within 0 bound := fun n _ => Nat.zero_le n

theorem Within.mono {m n : Nat} {bound : Option Nat} (h : Within n bound) (hmn : m ≤ n) : Within m bound :=
  fun cap hcap => le_trans hmn (h cap hcap)

/-- FP_PUSH byte by byte emits what the stream emits, and leaves what it gathers. -/
theorem pushAll_stream {T : List Byte} {s : State} (hf : s.blk.fault = false)
    (h : StreamFits s.cfg.parserCapacity s.blk.buf T) :
    ∃ a, pushAll T s = some (emitted s.blk.buf T, a) ∧ a.blk = { s.blk with buf := gather s.blk.buf T } := by
  induction T generalizing s with
  | nil => exact ⟨s, rfl, rfl⟩
  | cons b T ih =>
    obtain ⟨hb, hT⟩ := streamFits_cons.mp h
    have hexec := exec_fpPush_ready b (ready_operand (d := []) hf (within_zero _)) rfl hb
    obtain ⟨a, hpush, hblk⟩ := ih (s := fpRespond (fpStep s.blk.buf b).1 1 (fpStep s.blk.buf b).2
      { s with operand := [] }) hf hT
    exact ⟨a, by simp [pushAll, hexec, hpush, framesOf, takenFrom, emitted], hblk⟩

/-- The host's loop over one slice, likewise: each FP_APPEND takes at least a byte, so the fuel lasts. -/
theorem offerSlice_stream {fuel : Nat} {d : List Byte} {s : State} (hf : s.blk.fault = false)
    (hfuel : d.length ≤ fuel) (hd : Within d.length s.cfg.dataCapacity)
    (h : StreamFits s.cfg.parserCapacity s.blk.buf d) :
    ∃ a, offerSlice fuel d s = some (emitted s.blk.buf d, a) ∧
      a.blk = { s.blk with buf := gather s.blk.buf d } ∧ a.cfg = s.cfg := by
  induction fuel generalizing d s with
  | zero =>
    obtain rfl : d = [] := List.length_eq_zero_iff.mp (Nat.le_zero.mp hfuel)
    exact ⟨s, rfl, rfl, rfl⟩
  | succ fuel ih =>
    cases d with
    | nil => exact ⟨s, rfl, rfl, rfl⟩
    | cons b rest =>
      obtain ⟨j, fo, hj, hpos, hloop, hemit⟩ := appendLoop_stream (k := 0) h
      have hpos := hpos (List.cons_ne_nil b rest)
      have hsplit : (b :: rest).take j ++ (b :: rest).drop j = b :: rest := List.take_append_drop ..
      have hlen : ((b :: rest).drop j).length = (b :: rest).length - j := List.length_drop
      have hexec := exec_fpAppend_taken (ready_operand hf hd) hloop
      rw [← hsplit, streamFits_append] at h
      obtain ⟨a, hoffer, hblk, hcfg⟩ := ih (d := (b :: rest).drop j)
        (s := fpRespond (gather s.blk.buf ((b :: rest).take j)) (0 + j) fo { s with operand := b :: rest })
        hf (by omega) (hd.mono (by omega)) h.2
      refine ⟨a, ?_, ?_, hcfg⟩
      · rw [← hsplit, emitted_append, hemit]
        simp only [fpRespond_blk, Nat.zero_add] at hoffer hexec
        simp only [hsplit, offerSlice, hexec, fpRespond_resp, framesOf, takenFrom, hoffer, Option.map_some]
      · rw [hblk]
        conv_rhs => rw [← hsplit, gather_append]
        rfl

/-- The host's loop over a cut, likewise. -/
theorem offerAll_stream {slices : List (List Byte)} {s : State} (hf : s.blk.fault = false)
    (hd : ∀ d ∈ slices, Within d.length s.cfg.dataCapacity)
    (h : StreamFits s.cfg.parserCapacity s.blk.buf slices.flatten) :
    ∃ a, offerAll slices s = some (emitted s.blk.buf slices.flatten, a) ∧
      a.blk = { s.blk with buf := gather s.blk.buf slices.flatten } := by
  induction slices generalizing s with
  | nil => exact ⟨s, rfl, rfl⟩
  | cons d slices ih =>
    rw [List.forall_mem_cons] at hd
    rw [List.flatten_cons, streamFits_append] at h
    obtain ⟨t, hslice, hblk, hcfg⟩ := offerSlice_stream hf le_rfl hd.1 h.1
    obtain ⟨a, hall, hablk⟩ := ih (s := t) (by rw [hblk]; exact hf) (by rw [hcfg]; exact hd.2)
      (by rw [hcfg, hblk]; exact h.2)
    rw [hblk] at hall hablk
    exact ⟨a, by simp only [offerAll, hslice, hall, Option.map_some, List.flatten_cons, emitted_append],
      by rw [hablk, List.flatten_cons, gather_append]⟩

/-- Settles O16: both ways of feeding emit what the stream emits, and leave what it gathers. -/
theorem splitIndependence : Obligations.SplitIndependence := by
  intro slices s hf hfits hd
  obtain ⟨a, hpush, hablk⟩ := pushAll_stream hf hfits
  obtain ⟨b, hoffer, hbblk⟩ := offerAll_stream hf hd hfits
  exact ⟨_, a, b, hpush, hoffer, hablk.trans hbblk.symm, hablk⟩

/-! ### An encoded frame as a stream (R186) -/

section
variable {rsv : BitVec 3} {form : LenForm} {f : Frame}

/-- Up to any byte but the last, an encoded frame is gathered and nothing is emitted. -/
theorem stream_take_encodeFrame (hf : f.wf = true) (h : form.holds f.payload.length = true) {n : Nat}
    (hn : n < (encodeFrame rsv form f).length) :
    gather [] ((encodeFrame rsv form f).take n) = (encodeFrame rsv form f).take n ∧
      emitted [] ((encodeFrame rsv form f).take n) = [] := by
  refine stream_of_incomplete fun j _ hj => ?_
  rw [List.length_take] at hj
  rw [List.nil_append, List.take_take]
  exact complete_take_encodeFrame hf h (by omega)

theorem stream_dropLast_encodeFrame (hf : f.wf = true) (h : form.holds f.payload.length = true) :
    gather [] (encodeFrame rsv form f).dropLast = (encodeFrame rsv form f).dropLast ∧
      emitted [] (encodeFrame rsv form f).dropLast = [] := by
  have hpos : 0 < (encodeFrame rsv form f).length := List.length_pos_of_ne_nil (List.cons_ne_nil _ _)
  rw [List.dropLast_eq_take]
  exact stream_take_encodeFrame hf h (Nat.sub_lt hpos Nat.one_pos)

/-- The last byte emits the frame and empties the buffer. -/
theorem stream_encodeFrame (hf : f.wf = true) (h : form.holds f.payload.length = true) :
    gather [] (encodeFrame rsv form f) = [] ∧ emitted [] (encodeFrame rsv form f) = [f] := by
  have hsplit := List.dropLast_append_getLast (l := encodeFrame rsv form f) (List.cons_ne_nil _ _)
  have hstep := fpStep_complete (by rw [hsplit]; exact encodeFrame_complete (rsv := rsv) hf h)
  rw [hsplit, frameOf_encodeFrame hf h] at hstep
  obtain ⟨hgather, hemit⟩ := stream_dropLast_encodeFrame (rsv := rsv) hf h
  rw [← hsplit, gather_append, emitted_append, hgather, hemit]
  simp [emitted, hstep]

theorem streamFits_encodeFrame {cap : Option Nat} (hf : f.wf = true) (h : form.holds f.payload.length = true)
    (hc : Within (encodeFrame rsv form f).length cap) : StreamFits cap [] (encodeFrame rsv form f) := by
  intro n hn
  rw [(stream_take_encodeFrame hf h hn).1, List.length_take]
  exact hc.mono (by omega)

end

/-- Settles O18: FE's output is an encoded frame, and FP's stream gives it back with its last byte. -/
theorem encoderParserRoundTrip : Obligations.EncoderParserRoundTrip := by
  intro op P slices s hP hf hbuf hflat hcap hd
  have hwf := outboundFrame_wf op (P := P) (by omega)
  have hform := shortestForm_holds (L := P.length) (by omega)
  rw [feHdr_append_eq_encodeFrame] at hflat ⊢
  rw [hflat] at hcap
  have hfits := streamFits_encodeFrame hwf hform hcap
  obtain ⟨hgather, hemit⟩ := stream_encodeFrame (rsv := 0) hwf hform
  obtain ⟨-, hemitLast⟩ := stream_dropLast_encodeFrame (rsv := 0) hwf hform
  obtain ⟨t, hoffer, hblk⟩ := offerAll_stream hf hd (by rw [hbuf, hflat]; exact hfits)
  obtain ⟨u, hpush, -⟩ := pushAll_stream hf (by rw [hbuf]; exact hfits.dropLast)
  rw [hbuf, hflat, hemit] at hoffer
  rw [hbuf, hflat, hgather] at hblk
  rw [hbuf, hemitLast] at hpush
  exact ⟨⟨t, hoffer, hblk⟩, u, hpush⟩

end Sys2Proof.Machine

/-! The commands: which checks each passes, what each answers, and that none touches the host's state
(40_frame_parser.md, 41_masking.md, 42_handshake_hasher.md, 43_frame_encoder.md, 44_control.md; 60_exceptions.md R240 to
R243). -/

namespace Sys2Proof.Machine

/-! ### The checks (R243) -/

section
variable {s : State} {i : Instr}

theorem raiseFault_operandLength (s : State) : raiseFault .operandLength s = withPreciseFault 0x02 s := rfl

theorem refuseFaulted_eq (s : State) : refuseFaulted s = withFaulted s := rfl

theorem operandNotEmpty_of_ne (h : s.operand ≠ []) : operandNotEmpty s.operand = true := by
  simpa [operandNotEmpty] using h

theorem exec_rdStatus_checked (h : ¬ (s.blk.fault = true ∧ s.operand = [])) :
    exec .rdStatus s = .next (checked operandNotEmpty readStatus s) := by
  have hcond : (s.blk.fault && s.operand.isEmpty) = false := by simpa using h
  simp only [exec, execRdStatus, hcond, Bool.false_eq_true, if_false]

/-- Every command goes through the checks, but a read of STATUS with empty data while a fault is pending. -/
theorem exec_command_checked (hi : IsCommand i) (h : ¬ (i = .rdStatus ∧ s.blk.fault = true ∧ s.operand = [])) :
    ∃ bad p, exec i s = .next (checked bad p s) := by
  cases i with
  | fpPush | fpAppend | mxXor | hhAccept | hhSha1 | hhB64 | feHeader | feFrame => exact ⟨_, _, rfl⟩
  | rdStatus => exact ⟨_, _, exec_rdStatus_checked fun hs => h ⟨rfl, hs⟩⟩
  | _ => cases hi

end

/-- Settles O34: check 3 comes before the command, and each length check raises the same precise fault. -/
theorem operandLengthFaults : Obligations.OperandLengthFaults := by
  intro s hf
  have hbad {bad p} (h : bad s.operand = true) : checked bad p s = withPreciseFault 0x02 s :=
    checked_badLength hf h
  refine ⟨fun i cap hi hcap hlen => ?_, fun h b => ?_, fun h => ?_, fun h => ?_, fun h op => ?_, fun h op => ?_⟩
  · obtain ⟨bad, p, he⟩ := exec_command_checked (s := s) hi fun ⟨_, hf', _⟩ => by simp [hf] at hf'
    have hlong : operandTooLong s = true := by simpa [operandTooLong, exceeds, hcap] using hlen
    rw [he, checked_tooLong hf hlong, raiseFault_operandLength]
  · exact congrArg _ (hbad (operandNotEmpty_of_ne h))
  · rw [exec_rdStatus_checked fun hs => h hs.2, hbad (operandNotEmpty_of_ne h)]
  · exact congrArg _ (hbad (decide_eq_true h))
  · exact congrArg _ (hbad (by simpa [operandNotEight] using h))
  · exact congrArg _ (hbad (decide_eq_true h))

/-- Settles O35: check 1 comes before every other. -/
theorem faultedRefusesCommands : Obligations.FaultedRefusesCommands := by
  intro s i hf hi hne
  obtain ⟨bad, p, he⟩ := exec_command_checked hi fun ⟨hrd, _, hd⟩ => hne ⟨hrd, hd⟩
  rw [he, checked_faulted hf, refuseFaulted_eq]

/-! ### What a command may change (R58) -/

section
variable {s t : State} {i : Instr}

/-- Only the block, the response and the counter of free values may differ, and there is a response. -/
def OnlyBlockChanges (s t : State) : Prop :=
  ∃ r, t = { s with blk := t.blk, resp := some r, draws := t.draws }

theorem respond_onlyBlockChanges (st : BitVec 8) (k : Nat) (fo : Option Frame) (out : List Byte) (b : Block) (d : Nat)
    (s : State) : OnlyBlockChanges s (respond st k fo out { s with blk := b, draws := d }) := ⟨_, rfl⟩

theorem raiseFault_onlyBlockChanges (c : Cause) (s : State) : OnlyBlockChanges s (raiseFault c s) :=
  respond_onlyBlockChanges ..

theorem refuseFaulted_onlyBlockChanges (s : State) : OnlyBlockChanges s (refuseFaulted s) :=
  respond_onlyBlockChanges _ _ _ _ s.blk s.draws s

theorem respondOut_onlyBlockChanges (out : List Byte) (d : Nat) (s : State) :
    OnlyBlockChanges s (respondOut out { s with draws := d }) :=
  respond_onlyBlockChanges _ _ _ _ s.blk d s

theorem fpRespond_onlyBlockChanges (B : List Byte) (k : Nat) (fo : Option Frame) (s : State) :
    OnlyBlockChanges s (fpRespond B k fo s) := ⟨_, rfl⟩

theorem checked_onlyBlockChanges {bad : List Byte → Bool} {p : State → State} (h : OnlyBlockChanges s (p s)) :
    OnlyBlockChanges s (checked bad p s) := by
  obtain e | ⟨-, e⟩ | ⟨-, e⟩ := checked_cases (bad := bad) (p := p) (s := s) <;> rw [e]
  · exact refuseFaulted_onlyBlockChanges s
  · exact raiseFault_onlyBlockChanges _ s
  · exact h

theorem exec_command_onlyBlockChanges (hi : IsCommand i) (ht : exec i s = .next t) : OnlyBlockChanges s t := by
  cases i with
  | fpPush b =>
    cases ht
    apply checked_onlyBlockChanges
    unfold pushByte
    split
    · exact raiseFault_onlyBlockChanges _ s
    · exact fpRespond_onlyBlockChanges ..
  | fpAppend =>
    cases ht
    apply checked_onlyBlockChanges
    unfold appendSlice
    split
    · exact fpRespond_onlyBlockChanges ..
    · exact raiseFault_onlyBlockChanges _ s
  | hhAccept =>
    cases ht
    apply checked_onlyBlockChanges
    unfold acceptOperand
    split
    · exact raiseFault_onlyBlockChanges _ s
    · exact respondOut_onlyBlockChanges _ s.draws s
  | hhSha1 =>
    cases ht
    apply checked_onlyBlockChanges
    unfold sha1Operand
    split
    · exact raiseFault_onlyBlockChanges _ s
    · exact respondOut_onlyBlockChanges _ s.draws s
  | mxXor | hhB64 | feHeader | feFrame =>
    cases ht
    exact checked_onlyBlockChanges (respondOut_onlyBlockChanges _ s.draws s)
  | rdStatus =>
    cases ht
    split
    · exact respondOut_onlyBlockChanges ..
    · exact checked_onlyBlockChanges (respondOut_onlyBlockChanges ..)
  | _ => cases hi

theorem OnlyBlockChanges.eq (h : OnlyBlockChanges s t) :
    t = { s with blk := t.blk, resp := t.resp, draws := t.draws } := by
  obtain ⟨r, hr⟩ := h
  have hresp : t.resp = some r := congrArg State.resp hr
  rw [hresp]
  exact hr

theorem OnlyBlockChanges.responds (h : OnlyBlockChanges s t) : ∃ r, t.resp = some r := by
  obtain ⟨r, hr⟩ := h
  exact ⟨r, congrArg State.resp hr⟩

theorem OnlyBlockChanges.ses (h : OnlyBlockChanges s t) : t.ses = s.ses := by
  obtain ⟨r, hr⟩ := h
  exact (congrArg State.ses hr :)

end

/-- Settles O42: no command touches more than the block, the response and the counter. -/
theorem commandsLeaveHost : Obligations.CommandsLeaveHost :=
  fun _ _ _ hi ht => (exec_command_onlyBlockChanges hi ht).eq

/-- The state differs only in its response, unless the response reports a fault entered. -/
def OnlyResponseChanges (s t : State) : Prop :=
  ∃ r, t.resp = some r ∧ (r.status = 0x00 ∨ r.status = 0x80 → t = { s with resp := some r })

section
variable {s : State}

theorem respondOut_onlyResponseChanges (out : List Byte) (s : State) : OnlyResponseChanges s (respondOut out s) :=
  ⟨_, rfl, fun _ => rfl⟩

theorem raiseFault_onlyResponseChanges (c : Cause) (s : State) : OnlyResponseChanges s (raiseFault c s) := by
  refine ⟨_, rfl, fun h => ?_⟩
  cases c <;> simp [Cause.code] at h

theorem checked_onlyResponseChanges {bad : List Byte → Bool} {p : State → State} (h : OnlyResponseChanges s (p s)) :
    OnlyResponseChanges s (checked bad p s) := by
  obtain e | ⟨-, e⟩ | ⟨-, e⟩ := checked_cases (bad := bad) (p := p) (s := s) <;> rw [e]
  · exact ⟨_, rfl, fun _ => rfl⟩
  · exact raiseFault_onlyResponseChanges _ s
  · exact h

end

/-- Settles O41: the six commands answer an output or enter a fault, and the checks do no more. -/
theorem pureUnitsChangeOnlyResponse : Obligations.PureUnitsChangeOnlyResponse := by
  intro s t i op hi ht
  simp only [List.mem_cons, List.not_mem_nil, or_false] at hi
  obtain rfl | rfl | rfl | rfl | rfl | rfl := hi <;> cases ht <;> apply checked_onlyResponseChanges
  case inr.inl =>
    unfold acceptOperand
    split
    · exact raiseFault_onlyResponseChanges _ s
    · exact respondOut_onlyResponseChanges _ s
  case inr.inr.inl =>
    unfold sha1Operand
    split
    · exact raiseFault_onlyResponseChanges _ s
    · exact respondOut_onlyResponseChanges _ s
  all_goals exact respondOut_onlyResponseChanges _ s

/-! ### FP (R102 to R104) -/

/-- Settles O13: FP_APPEND's loop ends at the data's end, or at the first byte that completes a frame. -/
theorem fpAppendConsumption : Obligations.FpAppendConsumption := by
  intro s hs
  refine ⟨fun hc hn => ?_, fun k hk hl hc hf hn => ?_⟩
  · rw [exec_fpAppend_taken hs (appendLoop_none hc hn), Nat.zero_add]
    rfl
  · rw [exec_fpAppend_taken hs (appendLoop_some hc hk hl hf hn), Nat.zero_add]
    rfl

/-- Settles O14: the loop over no data takes nothing. -/
theorem fpAppendOfNothing : Obligations.FpAppendOfNothing := by
  intro s hf hd
  have hs : Ready s := ⟨hf, by rw [hd]; exact within_zero _⟩
  have hloop : appendLoop s.cfg.parserCapacity s.blk.buf 0 s.operand = .taken s.blk.buf 0 none := by rw [hd]; rfl
  exact exec_fpAppend_taken hs hloop

/-! ### CAPACITY (R101, R102, R160, R161) -/

theorem capacityBuffer_within (s : State) : Within (capacityBuffer s).length s.cfg.parserCapacity := by
  intro cap hcap
  rw [capacityBuffer, hcap]
  exact List.length_take_le ..

theorem raiseFault_capacityEntered (s : State) : CapacityEntered s (.next (raiseFault .capacity s)) :=
  ⟨capacityBuffer s, s.draws + 1, capacityBuffer_within s, rfl⟩

/-- The loop passes the capacity where none of the bytes that fit completes a frame. -/
theorem appendLoop_overCapacity {cap k : Nat} {B d : List Byte} (hB : B.length ≤ cap)
    (hd : cap < B.length + d.length)
    (hn : ∀ j, 0 < j → B.length + j ≤ cap → complete (B ++ d.take j) = false) :
    appendLoop (some cap) B k d = .overCapacity := by
  induction d generalizing B k with
  | nil => exact absurd hB (by simpa using hd)
  | cons b d ih =>
    unfold appendLoop
    split
    case isTrue => rfl
    case isFalse hfull =>
      have hfit : B.length + 1 ≤ cap := by simpa [bufferFull, exceeds] using hfull
      rw [fpStep_gather (by simpa using hn 1 Nat.one_pos hfit)]
      refine ih (by simpa using hfit) (by simp at hd ⊢; omega) fun j hj hl => ?_
      simpa using hn (j + 1) j.succ_pos (by simp at hl; omega)

/-- Settles O15: each of the four finds its bound passed, and the fault it raises draws a free buffer. -/
theorem capacityFaults : Obligations.CapacityFaults := by
  intro s hs
  have hraise {bad p} (hb : bad s.operand = false) (hp : p s = raiseFault .capacity s) :
      CapacityEntered s (.next (checked bad p s)) := by
    rw [checked_ready hs hb, hp]
    exact raiseFault_capacityEntered s
  refine ⟨fun b cap hd hcap hlen => hraise (by rw [hd]; rfl) ?_, fun cap hcap hB hd hn => hraise rfl ?_,
    fun hlen => hraise rfl ?_, fun hlen => hraise rfl ?_⟩
  · have hfull : bufferFull s.cfg.parserCapacity s.blk.buf = true := by
      rw [hcap]
      exact decide_eq_true hlen
    rw [pushByte, if_pos hfull]
  · rw [appendSlice, hcap, appendLoop_overCapacity hB hd hn]
  · rw [acceptOperand, hashTooLong, hashMaxBytes, decide_eq_true hlen, if_pos rfl]
  · rw [sha1Operand, hashTooLong, hashMaxBytes, decide_eq_true hlen, if_pos rfl]

/-! ### MX (R130 to R132) -/

/-- Settles O19: byte `i` of the masked bytes is XORed with key byte `i mod 4`. -/
theorem mxXorResult : Obligations.MxXorResult := by
  intro s hs hlen
  refine ⟨xorMask (s.operand.drop 4) (s.operand.take 4), ?_, by simp, fun i hi => ?_⟩
  · exact congrArg _ (checked_ready (p := maskOperand) hs (decide_eq_false (Nat.not_lt.mpr hlen)))
  · rw [xorMask_length, List.length_drop] at hi
    have hin : 4 + i < s.operand.length := by omega
    have hkey : i % 4 < 4 := Nat.mod_lt _ (by decide)
    simp [List.getD_eq_getElem?_getD, xorMask_get, List.getElem?_drop, hkey,
      List.getElem?_eq_getElem hin]

/-- Settles O20: the two XORs with one key byte cancel. -/
theorem maskingTwiceRestores : Obligations.MaskingTwiceRestores := fun P K _ => xorMask_xorMask P K

/-! ### HH (R152 to R161) -/

theorem sha1_length (m : List Byte) : (sha1 m).length = 20 := by simp [sha1, digestBytes]

theorem hashTooLong_eq_false {n : Nat} (h : n ≤ 2 ^ 61 - 1) : hashTooLong n = false :=
  decide_eq_false (Nat.not_lt.mpr h)

theorem exec_hhSha1 (s : State) : exec .hhSha1 s = .next (checked operandAny sha1Operand s) := rfl

/-- Settles O21: past the checks the digest is answered, five words of four bytes. -/
theorem hhSha1Result : Obligations.HhSha1Result := by
  intro s hs hlen
  refine ⟨?_, sha1_length _⟩
  rw [exec_hhSha1, checked_ready hs rfl, sha1Operand, hashTooLong_eq_false hlen]
  rfl

/-- Settles O22: the hash run on the three test vectors. -/
theorem hashKnownAnswers : Obligations.HashKnownAnswers := by
  unfold Obligations.HashKnownAnswers
  decide +kernel

/-- Settles O23: `padZeros` is the least count, as the 8 bytes of the length fill the block. -/
theorem sha1PaddingLayout : Obligations.Sha1PaddingLayout := by
  intro m
  refine ⟨padZeros m.length, rfl, ?_, fun y hy => ?_, ?_⟩
  · unfold padZeros; omega
  · unfold padZeros; omega
  · simp only [sha1Pad, List.length_append, List.length_singleton, List.length_replicate, toBigEndian_length, padZeros]
    omega

/-- Base64 is written in the alphabet and the pad. -/
theorem b64_alphabet (d : List Byte) : ∀ c ∈ b64 d, c = 0x3D ∨ ∃ v, v < 64 ∧ c = b64Char v := by
  have hsextet (v k : Nat) : sextet v k = 0x3D ∨ ∃ w, w < 64 ∧ sextet v k = b64Char w :=
    .inr ⟨_, Nat.mod_lt _ (by decide), sextet_eq v k⟩
  induction d using b64.induct with
  | case1 => simp [b64]
  | case2 => simp only [b64, List.forall_mem_cons, hsextet]; simp [b64Pad]
  | case3 => simp only [b64, List.forall_mem_cons, hsextet]; simp [b64Pad]
  | case4 x y z rest ih => simpa only [b64, List.forall_mem_cons, hsextet, true_and] using ih

/-- 20 bytes leave a last group of two, so the last character is the pad (R158). -/
theorem b64_last_of_length {d : List Byte} (hd : d.length = 20) : (b64 d).getD 27 0 = 0x3D := by
  have hgroup : slice (b64 d) 24 4 = b64 (slice d 18 3) := slice_b64 d (j := 6) (by omega)
  have hlen : (slice d 18 3).length = 2 := by rw [slice_length_eq_min]; omega
  rw [b64_group_two hlen] at hgroup
  have hlast := congrArg (fun g => g[3]?) hgroup
  simp only [slice, List.getElem?_take, List.getElem?_drop] at hlast
  simpa [List.getD_eq_getElem?_getD] using congrArg (fun o : Option Byte => o.getD 0) hlast

theorem performHhAccept_ready {s : State} (hs : Ready s) (hlen : s.operand.length + 36 ≤ 2 ^ 61 - 1) :
    performHhAccept s = withOutput (acceptToken s.operand) s := by
  rw [performHhAccept, checked_ready hs rfl, acceptOperand, hashTooLong_eq_false hlen]
  rfl

/-- Settles O26: the digest has 20 bytes, so its base64 has 28 characters and one pad. -/
theorem hhAcceptResult : Obligations.HhAcceptResult := by
  intro s hs hlen
  refine ⟨congrArg Host.Outcome.next (performHhAccept_ready hs hlen), ?_, b64_last_of_length (sha1_length _),
    b64_alphabet _⟩
  rw [acceptToken, b64_length, sha1_length]

/-! ### FE (R182) -/

theorem performFeFrame_ready {s : State} (op : Opcode) (hs : Ready s) (hlen : s.operand.length ≤ 2 ^ 64 - 1) :
    performFeFrame op s = withOutput (specHeader op s.operand.length ++ s.operand) s := by
  rw [performFeFrame, checked_ready hs (decide_eq_false (Nat.not_lt.mpr hlen)), frameOperand, feHdr_eq_specHeader]
  rfl

/-- Settles O29: past the checks FE_FRAME answers the spec's header and its operand. -/
theorem feFrameResult : Obligations.FeFrameResult :=
  fun _ op hs hlen => congrArg Host.Outcome.next (performFeFrame_ready op hs hlen)

/-! ### STATUS (R30, R31, R190) -/

theorem toBigEndian_two_append (b0 b1 : Byte) : toBigEndian 2 (b0 ++ b1).toNat = [b0, b1] := by
  have hlt : bigEndian [b0, b1] < 65536 := by simpa using bigEndian_lt [b0, b1]
  apply toBigEndian_bigEndian [b0, b1]
  rw [← ofNat_bigEndian_two, BitVec.toNat_ofNat]
  simp [Nat.mod_eq_of_lt hlt]

/-- The low byte of STATUS is twice the stage plus the fault bit. -/
theorem statusLowByte (v : BitVec 3) (fault : Bool) :
    (0 : BitVec 4) ++ v ++ BitVec.ofBool fault = BitVec.ofNat 8 (2 * v.toNat + if fault then 1 else 0) := by
  revert v fault
  decide

theorem statusWord_bytes (s : State) : toBigEndian 2 (statusWord s).toNat =
    [s.blk.cause, BitVec.ofNat 8 (2 * (stageRead s).toNat + if s.blk.fault then 1 else 0)] := by
  have hword : statusWord s = s.blk.cause ++ ((0 : BitVec 4) ++ stageRead s ++ BitVec.ofBool s.blk.fault) := by
    simp only [statusWord, BitVec.append_assoc, BitVec.cast_eq]
  rw [hword, ← statusLowByte]
  exact toBigEndian_two_append _ _

/-- With empty data STATUS is read, whether or not a fault is pending (R242). -/
theorem exec_rdStatus_empty {s : State} (hd : s.operand = []) :
    exec .rdStatus s = .next (withOutput
      [s.blk.cause, BitVec.ofNat 8 (2 * (stageRead s).toNat + if s.blk.fault then 1 else 0)]
      { s with draws := drawsAfterStatus s }) := by
  have hread : exec .rdStatus s = .next (readStatus s) := by
    cases hf : s.blk.fault with
    | true => simp [exec, execRdStatus, hf, hd]
    | false =>
      have hs : Ready s := ⟨hf, by rw [hd]; exact within_zero _⟩
      rw [exec_rdStatus_checked (by simp [hf]), checked_ready hs (by rw [hd]; rfl)]
  rw [hread, readStatus, statusWord_bytes]
  rfl

/-- Settles O31: where STAGE is given no free value is drawn. -/
theorem rdStatusResult : Obligations.RdStatusResult := by
  intro s v hd hf hv
  have hgiven : stageGiven s.blk = some v := by
    rw [stageGiven, if_neg, hv]
    rintro ⟨hfault, hcause⟩
    rcases hf with hf | hf
    · simp [hf] at hfault
    · exact hf hcause
  rw [exec_rdStatus_empty hd, stageRead, drawsAfterStatus, hgiven]

/-- Settles O32: STAGE is the free value drawn, of 3 bits. -/
theorem rdStatusAfterCapacity : Obligations.RdStatusAfterCapacity := by
  intro s hd hf hc
  refine ⟨(stageRead s).toNat, drawsAfterStatus s, (stageRead s).isLt, ?_⟩
  rw [exec_rdStatus_empty hd, hf, hc]
  rfl

/-- A gathered buffer is shorter than the frame it starts: else its first `total` bytes would be complete. -/
theorem length_lt_total {B : List Byte} (hB : NoCompletePrefix B) : B.length < total B := by
  by_contra hge
  have hk := keyOff_ge B
  have hh := hdrLen_ge B
  have ht := total_ge B
  have hnot := hB (total B) (by omega) (by omega)
  rw [complete_take (by omega)] at hnot
  cases hnot

/-- Settles O33: the cases of R30 exclude each other, and a gathered buffer reaches none past the last. -/
theorem stageCoversGatheredBuffers : Obligations.StageCoversGatheredBuffers := by
  intro B hB
  have hlt := length_lt_total hB
  have hk := keyOff_ge B
  have hh := hdrLen_ge B
  unfold stage
  split_ifs
  all_goals
    refine ⟨⟨_, rfl, by decide⟩, ?_⟩
    simp [-List.length_eq_zero_iff]
    omega

/-! ### Reset (R260) -/

/-- Settles O37: both resets set the block's three fields, and STATUS of that block reads zero. -/
theorem resetClearsBlock : Obligations.ResetClearsBlock := by
  refine ⟨fun s rest hb => step_reset hb, fun s rest hs hp => step_atProgram hs hp, rfl, fun s hblk hd => ?_⟩
  have hstatus := rdStatusResult s 0 hd (.inl (by rw [hblk])) (by rw [hblk]; rfl)
  rw [hstatus, hblk]
  rfl

end Sys2Proof.Machine

/-! The host's dispatch of data frames and of PING, and its sends (47_host_consumer.md R206 to R222). -/

namespace Sys2Proof.Machine

/-! ### Data frames (R208 to R214) -/

theorem exec_wireCont (fin : Bool) (key : Option (List Byte)) (p : List Byte) (s : State) :
    exec (.wireCont fin key p) s = .next (dispatchData 0x0 fin p s) := rfl

/-- Settles O43: CONT is refused where nothing is in progress; else it is accepted under the remembered opcode. -/
theorem wireContResult : Obligations.WireContResult := by
  intro s fin key p
  rw [exec_wireCont]
  refine ⟨fun h => ?_, fun o h hfin => ?_, fun h hfin => ?_, fun h hfin => ?_⟩
  · rw [dispatchData_refused (by rw [h]; rfl)]
  · rw [hfin, dispatchData_more (by rw [h]; rfl), h, startOpAfter]
  · rw [hfin, dispatchData_finishText (by rw [h]; rfl) (by rw [h]; rfl)]
  · rw [hfin, dispatchData_finishBinary (by rw [h]; rfl) (by rw [h]; rfl)]

/-- R213: an opcode that is none of CONT, TEXT and BINARY is never accepted. -/
theorem fragmentAccepted_reserved (startOp : Option Opcode) {op : Opcode} (h : 3 ≤ op.toNat) :
    fragmentAccepted startOp op = false := by
  have hne (c : Opcode) (hc : c.toNat < 3) : (op == c) = false := beq_false_of_ne fun e => by rw [e] at h; omega
  cases startOp with
  | none => rw [fragmentAccepted, hne 0x1 (by decide), hne 0x2 (by decide)]; rfl
  | some o => exact hne 0x0 (by decide)

/-- Settles O46: the five opcodes are refused whatever is in progress. -/
theorem wireReservedDataResult : Obligations.WireReservedDataResult := by
  intro s fin key p i hi
  have hrefused {op : Opcode} (h : 3 ≤ op.toNat) : dispatchData op fin p s = withReadError .unexpectedOpcode s :=
    dispatchData_refused (fragmentAccepted_reserved _ h) fin p
  simp only [List.mem_cons, List.not_mem_nil, or_false] at hi
  obtain rfl | rfl | rfl | rfl | rfl := hi <;> exact congrArg _ (hrefused (by decide))

/-- The instruction of a frame stands for the frame, but for a `masked` flag that does not agree with the key. -/
theorem toFrame_instrOfFrame (f : Frame) : (instrOfFrame f).toFrame = some { f with masked := f.maskKey.isSome } := by
  obtain ⟨fin, ⟨n, hn⟩, masked, key, payload⟩ := f
  interval_cases n <;> rfl

/-- The four dispatches of an emitted frame. -/
theorem exec_instrOfFrame_cases (f : Frame) (s : State) :
    (f.opcode.toNat < 8 ∧ exec (instrOfFrame f) s = .next (dispatchData f.opcode f.fin f.payload s)) ∨
      (f.opcode = 0x8 ∧ exec (instrOfFrame f) s = .next (dispatchClose f.payload s)) ∨
      (f.opcode = 0x9 ∧ exec (instrOfFrame f) s = .next (dispatchPing f.payload s)) ∨
      (0xA ≤ f.opcode.toNat ∧ exec (instrOfFrame f) s = .next s) :=
  exec_frame_cases (toFrame_instrOfFrame f) s

theorem exec_instrOfFrame_data {f : Frame} (h : f.opcode.toNat < 8) (s : State) :
    exec (instrOfFrame f) s = .next (dispatchData f.opcode f.fin f.payload s) := by
  obtain ⟨-, e⟩ | ⟨hop, -⟩ | ⟨hop, -⟩ | ⟨hop, -⟩ := exec_instrOfFrame_cases f s
  · exact e
  · simp [hop] at h
  · simp [hop] at h
  · omega

/-! ### A message cut into fragments (R214) -/

theorem dispatchAll_append (fs gs : List Frame) (s : State) :
    dispatchAll (fs ++ gs) s = (dispatchAll fs s).bind (dispatchAll gs) := by
  induction fs generalizing s with
  | nil => rfl
  | cons f fs ih =>
    obtain ⟨t, ht⟩ := exec_answers_next (instrOfFrame f) s
    simp only [List.cons_append, dispatchAll, ht, ih]

theorem dispatchAll_cons_data {f : Frame} (h : f.opcode.toNat < 8) (fs : List Frame) (s : State) :
    dispatchAll (f :: fs) s = dispatchAll fs (dispatchData f.opcode f.fin f.payload s) := by
  simp only [dispatchAll, exec_instrOfFrame_data h]

/-- CONT fragments without FIN only add their payloads to the message in progress. -/
theorem dispatchAll_cont {middle : List Frame} (h : ∀ f ∈ middle, f.opcode = 0x0 ∧ f.fin = false)
    (acc : List Byte) (o : Opcode) (s : State) :
    dispatchAll middle (withAssembler acc (some o) s) =
      some (withAssembler (acc ++ (middle.map Frame.payload).flatten) (some o) s) := by
  induction middle generalizing acc with
  | nil => simp [dispatchAll]
  | cons f middle ih =>
    obtain ⟨⟨hop, hfin⟩, hrest⟩ := List.forall_mem_cons.mp h
    have hmore : dispatchData 0x0 false f.payload (withAssembler acc (some o) s) =
        withAssembler (acc ++ f.payload) (some o) s := dispatchData_more rfl f.payload
    rw [dispatchAll_cons_data (by simp [hop]), hop, hfin, hmore, ih hrest]
    simp

/-- Settles O53: the first fragment starts the message, CONT fragments add to it, and the last one delivers it. -/
theorem fragmentsReassemble : Obligations.FragmentsReassemble := by
  intro s first middle last hasm hfirst hfin hmiddle hlast hlastFin before s1
  have hop : first.opcode.toNat < 8 := by rcases hfirst with h | h <;> simp [h]
  have haccepted : fragmentAccepted s.ses.asm.startOp first.opcode = true := by
    rcases hfirst with h | h <;> simp [hasm, h, fragmentAccepted]
  have hstart : dispatchAll (first :: middle) s = some (withAssembler before (some first.opcode) s) := by
    rw [dispatchAll_cons_data hop, hfin, dispatchData_more haccepted, hasm]
    exact dispatchAll_cont hmiddle _ _ s
  have hend : dispatchAll (first :: middle ++ [last]) s =
      some (dispatchData 0x0 true last.payload (withAssembler before (some first.opcode) s)) := by
    rw [dispatchAll_append, hstart, Option.bind_some, dispatchAll_cons_data (by simp [hlast]), hlast, hlastFin]
    rfl
  refine ⟨hstart, fun h => ?_, fun h hv => ?_, fun h hv => ?_⟩ <;> rw [hend, h]
  · rw [dispatchData_finishBinary rfl rfl]
    rfl
  · rw [dispatchData_finishText rfl rfl, finishText]
    exact congrArg some (if_pos hv)
  · rw [dispatchData_finishText rfl rfl, finishText]
    exact congrArg some (if_neg (ne_true_of_eq_false hv))

/-! ### Sends (R220, R221) -/

theorem specHeader_ne_nil (op : Opcode) (L : Nat) : specHeader op L ≠ [] := List.cons_ne_nil _ _

/-- A transport that takes a write puts all of it behind what was written before. -/
theorem writeAll_takes {n : Transport} {w : List Byte} (h : Takes n w.length) :
    writeAll w n = ({ n with txPlan := (writeLoop n.txPlan w).plan, tx := n.tx ++ w }, true) := by
  obtain ⟨hup, hplan⟩ := h
  have hok := writeLoop_ok hplan
  rw [writeAll, if_neg (ne_true_of_eq_false hup)]
  simp only [(writeLoop_prefix n.txPlan w).2 hok, hok]

/-- A transport that fails a write keeps the bytes its short writes took. -/
theorem writeAll_fails {n : Transport} {w : List Byte} {short : List Nat} {plan : List TxAnswer} (hw : w ≠ [])
    (h : WriteFails n w.length short plan) :
    writeAll w n = ({ n with txPlan := plan, tx := n.tx ++ w.take (shortWrites short) }, false) := by
  rcases h with ⟨hup, hplan, hshort⟩ | ⟨hdown, rfl, rfl⟩
  · rw [writeAll, if_neg (ne_true_of_eq_false hup), hplan, writeLoop_fails short plan hshort]
  · rw [writeAll, if_pos hdown, List.isEmpty_eq_false_iff.mpr hw]
    simp [shortWrites]

section
variable {op : Opcode} {p : List Byte} {s : State}

/-- On a block that is ready, a send writes the frame of its payload. -/
theorem sendFrame_ready (hs : Ready { s with operand := p }) (hp : p.length ≤ 2 ^ 64 - 1) :
    sendFrame op p s =
      ({ withOutput (specHeader op p.length ++ p) { s with operand := p } with
          net := (writeAll (specHeader op p.length ++ p) s.net).1 },
        (writeAll (specHeader op p.length ++ p) s.net).2) := by
  rw [sendFrame, performFeFrame_ready op hs hp]
  rfl

theorem sendFrame_takes (hs : Ready { s with operand := p }) (hp : p.length ≤ 2 ^ 64 - 1)
    (h : Takes s.net (specHeader op p.length ++ p).length) :
    ∃ plan, plan <:+ s.net.txPlan ∧ sendFrame op p s = (withSent op p plan s, true) := by
  refine ⟨_, writeLoop_plan s.net.txPlan (specHeader op p.length ++ p), ?_⟩
  rw [sendFrame_ready hs hp, writeAll_takes h]
  rfl

theorem sendFrame_fails (hs : Ready { s with operand := p }) (hp : p.length ≤ 2 ^ 64 - 1) {short : List Nat}
    {plan : List TxAnswer} (h : WriteFails s.net (specHeader op p.length ++ p).length short plan) :
    (sendFrame op p s).2 = false ∧ ioFailure (sendFrame op p s).1 = withSendFailure op p short plan s := by
  rw [sendFrame_ready hs hp, writeAll_fails (List.append_ne_nil_of_left_ne_nil (specHeader_ne_nil op p.length) p) h]
  exact ⟨rfl, rfl⟩

/-- `send` as a call: the whole frame is written and the call returns; or it returns IoError. -/
theorem callSend_takes (hs : Ready { s with operand := p }) (hp : p.length ≤ 2 ^ 64 - 1)
    (h : Takes s.net (specHeader op p.length ++ p).length) :
    ∃ plan, plan <:+ s.net.txPlan ∧
      callSend op p s = { withSent op p plan s with ses := { s.ses with ret := some .done } } := by
  obtain ⟨plan, hplan, hsend⟩ := sendFrame_takes hs hp h
  refine ⟨plan, hplan, ?_⟩
  rw [callSend, hsend]
  rfl

theorem callSend_fails (hs : Ready { s with operand := p }) (hp : p.length ≤ 2 ^ 64 - 1) {short : List Nat}
    {plan : List TxAnswer} (h : WriteFails s.net (specHeader op p.length ++ p).length short plan) :
    callSend op p s = withSendFailure op p short plan s := by
  obtain ⟨hno, hfail⟩ := sendFrame_fails hs hp h
  rw [callSend, hno]
  exact hfail

end

/-- Settles O48: a PING is a send of 0xA, and a failed one ends the read. -/
theorem wirePingResult : Obligations.WirePingResult := by
  intro s fin key p hs hp pong
  have hexec : exec (.wirePing fin key p) s = .next (dispatchPing p s) := rfl
  rw [hexec]
  refine ⟨fun h => ?_, fun short plan h => ?_⟩
  · obtain ⟨plan, hplan, hsend⟩ := sendFrame_takes hs hp h
    refine ⟨plan, hplan, ?_⟩
    rw [dispatchPing, hsend]
    rfl
  · obtain ⟨hno, hfail⟩ := sendFrame_fails hs hp h
    rw [dispatchPing, hno, ← hfail]
    rfl

/-! ### What a dispatch leaves of the block (R247) -/

/-- A data frame sets the reassembler; beside that it does nothing, delivers a message, or ends the read. -/
theorem dispatchData_cases (op : Opcode) (fin : Bool) (p : List Byte) (s : State) :
    let s1 := { s with ses := { s.ses with asm := (appendFragment op fin p s.ses.asm).1 } }
    dispatchData op fin p s = s1 ∨ (∃ m, dispatchData op fin p s = deliver m s1) ∨
      ∃ e, (appendFragment op fin p s.ses.asm).2 = .error e ∧ dispatchData op fin p s = protocolError e s1 := by
  unfold dispatchData
  rcases appendFragment op fin p s.ses.asm with ⟨a, _ | m | e⟩
  · exact .inl rfl
  · exact .inr (.inl ⟨m, rfl⟩)
  · exact .inr (.inr ⟨e, rfl, rfl⟩)

theorem dispatchData_ses (op : Opcode) (fin : Bool) (p : List Byte) (s : State) :
    dispatchData op fin p s = { s with ses := (dispatchData op fin p s).ses } := by
  obtain e | ⟨m, e⟩ | ⟨err, -, e⟩ := dispatchData_cases op fin p s <;> rw [e] <;> rfl

theorem dispatchPing_blk (p : List Byte) (s : State) :
    (dispatchPing p s).blk = (performFeFrame 0xA { s with operand := p }).blk := by
  rw [dispatchPing]
  split <;> rfl

/-- Settles O50: only a PING issues a command, and on a ready block FE_FRAME changes no more than the response. -/
theorem dispatchLeavesBlock : Obligations.DispatchLeavesBlock := by
  intro s t i f hf ht
  obtain ⟨hop, e⟩ | ⟨hop, e⟩ | ⟨hop, e⟩ | ⟨hop, e⟩ := exec_frame_cases hf s <;> (rw [e] at ht; cases ht)
  · exact ⟨fun _ => dispatchData_ses .., fun h => by simp [h] at hop⟩
  · exact ⟨fun _ => rfl, fun h => by simp [h] at hop⟩
  · refine ⟨fun h => absurd hop h, fun _ hs hlen => ?_⟩
    rw [dispatchPing_blk, performFeFrame_ready 0xA hs hlen]
    rfl
  · exact ⟨fun _ => rfl, fun _ _ _ => rfl⟩

end Sys2Proof.Machine

/-! The host's moves: which step each is, and what read, send, close and the handshake do (47_host_consumer.md R201 to
R226). -/

namespace Sys2Proof.Machine

/-! ### The next move (R201, R204, R253) -/

/-- Settles O7: the next move is issued as the word decodes; a STATUS read is issued as RD_STATUS. -/
theorem stepPerformsIssuedCommand : Obligations.StepPerformsIssuedCommand := by
  refine ⟨fun s cw data rest i hs hp hdec => ?_, fun s rest hb => step_readStatus hb⟩
  rw [step_atProgram hs hp, makeMove, issue, hdec]

/-- Settles O8: a waiting frame is dispatched first, as the instruction that stands for it. -/
theorem stepDispatchesEmittedFrame : Obligations.StepDispatchesEmittedFrame := by
  intro s f i hq hp hf
  rw [step_quiet hq, advance_pending (s := onward s) hp, instrOfFrame_of_toFrame hf]
  rfl

/-- Settles O11: with no call in progress and no move left, the step only takes its entry. -/
theorem idleKeepsState : Obligations.IdleKeepsState := by
  rintro s ⟨hq, hpending, howed, hreading⟩ hp
  rw [step_quiet hq, advance_idle (s := onward s) hpending howed hreading hp]

theorem cycleTurn_of_exec {s t : State} (h : exec .fpAppend { s with operand := s.ses.rem } = .next t) :
    cycleTurn s = .next (absorb t) := by
  have hissue : issue 0x0300 s.ses.rem s = .next t := h
  rw [cycleTurn, hissue]

/-- Settles O9: FP_APPEND leaves the session alone, and the cycle then drops what the response says was taken. -/
theorem stepTurnsReadCycle : Obligations.StepTurnsReadCycle := by
  intro s hq hpending howed hreading
  rw [step_quiet hq]
  refine ⟨fun hrem => ?_, fun hrem => ?_⟩
  · obtain ⟨t, ht⟩ := exec_answers_next .fpAppend { onward s with operand := s.ses.rem }
    have honly := exec_command_onlyBlockChanges (i := .fpAppend) rfl ht
    obtain ⟨r, hr⟩ := honly.responds
    have hses : t.ses = s.ses := honly.ses
    refine ⟨t, r, ht, hr, ?_⟩
    rw [advance_turn (s := onward s) hpending howed hreading hrem, cycleTurn_of_exec ht, absorb, hr, hses]
    rfl
  · rw [advance_return (s := onward s) hpending howed hreading hrem, endRead, ← hrem]
    rfl

/-! ### Calls on an open session (R201, R202, R219 to R224) -/

section
variable {s : State} {go : State → Host.Outcome State Fault Refusal}

theorem onOpenSession_open (hf : s.ses.framed = true) (hc : s.ses.closed = false) : onOpenSession s go = go s := by
  simp [onOpenSession, hf, hc]

theorem onOpenSession_closed (hf : s.ses.framed = true) (hc : s.ses.closed = true) :
    onOpenSession s go = .refused .sessionClosed := by
  simp [onOpenSession, hf, hc]

end

/-- Settles O56: all six calls ask for an open session first. -/
theorem closedSessionRefuses : Obligations.ClosedSessionRefuses := by
  intro s m rest op d code hs hp hf hc hm
  rw [step_atProgram hs hp]
  simp only [List.mem_cons, List.not_mem_nil, or_false] at hm
  obtain rfl | rfl | rfl | rfl | rfl | rfl := hm <;>
    (rw [makeMove]; exact onOpenSession_closed (by exact hf) (by exact hc))

/-- Settles O57: each form is `send` with its opcode and payload; `close` sets the flag before. -/
theorem sendWritesWholeFrame : Obligations.SendWritesWholeFrame := by
  intro s m rest op p closes hs hp hframed hclosed hready hlen hm s1 len
  have hstep : step s = .next (callSend op p s1) := by
    have hopen : ({ s.ses with closed := false } : Session) = s.ses := by rw [← hclosed]
    rw [step_atProgram hs hp]
    obtain ⟨rfl, rfl⟩ | ⟨rfl, rfl, hutf8, rfl⟩ | ⟨rfl, rfl, rfl⟩ | ⟨rfl, rfl, rfl, rfl⟩ |
      ⟨c, rfl, rfl, rfl, rfl⟩ := hm
    all_goals rw [makeMove, onOpenSession_open (by exact hframed) (by exact hclosed)]
    · simp only [s1, hopen]
      rfl
    · simp only [s1, hopen, hutf8, if_true]
      rfl
    · simp only [s1, hopen]
      rfl
    · rfl
    · rfl
  rw [hstep]
  refine ⟨fun h => ?_, fun short plan h => ?_⟩
  · obtain ⟨plan, hplan, hsend⟩ := callSend_takes (s := s1) hready hlen h
    exact ⟨plan, hplan, congrArg _ hsend⟩
  · rw [callSend_fails (s := s1) hready hlen h]

/-- Settles O58: the close owed is a send of 0x8 with the two bytes of the code, on a session set Closed. -/
theorem protocolErrorIsClosed : Obligations.ProtocolErrorIsClosed := by
  intro s hq hpending howed code s1 hready
  have hstep : step s = .next (callSend 0x8 code s1) := by
    rw [step_quiet hq, advance_owed (s := onward s) hpending howed]
    rfl
  have hcode : code.length ≤ 2 ^ 64 - 1 := by simp [code]
  have hlen : (specHeader 0x8 code.length ++ code).length = 4 := by simp [code, specHeader]
  rw [hstep]
  refine ⟨fun h => ?_, fun short plan h => ?_⟩ <;> rw [← hlen] at h
  · obtain ⟨plan, hplan, hsend⟩ := callSend_takes (s := s1) hready hcode h
    exact ⟨plan, hplan, congrArg _ hsend⟩
  · rw [callSend_fails (s := s1) hready hcode h]

theorem endRead_of_idle {s : State} (h : s.ses.reading = false) (r : CallResult) :
    endRead r s = { s with ses := { s.ses with rem := [], msgs := [], ret := some r } } := by
  rw [endRead, ← h]

theorem ioFailure_of_idle {s : State} (h : s.ses.reading = false) :
    ioFailure s = { s with net := { s.net with down := true }
                           ses := { s.ses with rem := [], msgs := [], ret := some (.error .ioError) } } :=
  endRead_of_idle (by exact h) _

theorem transportRead_down {n : Transport} (h : n.down = true) (k : Nat) : transportRead k n = (.failure, n) := by
  simp [transportRead, h]

section
variable {s : State}

theorem beginRead_wouldBlock {n : Transport} (h : transportRead s.cfg.readChunk s.net = (.wouldBlock, n)) :
    beginRead s = endRead (.messages []) { s with net := n } := by
  rw [beginRead, h]

theorem beginRead_failure {n : Transport} (h : transportRead s.cfg.readChunk s.net = (.failure, n)) :
    beginRead s = ioFailure { s with net := n } := by
  rw [beginRead, h]

theorem beginRead_bytes {n : Transport} {bs : List Byte}
    (h : transportRead s.cfg.readChunk s.net = (.bytes bs, n)) :
    beginRead s = startCycle bs { s with net := n } := by
  rw [beginRead, h]

end

/-- Settles O59: one case for each answer of the transport, cut at READ_CHUNK. -/
theorem readTakesTransportAnswer : Obligations.ReadTakesTransportAnswer := by
  intro s rest hs hframed hclosed s1 failed empty cycle
  have hidle := hs.2.2.2
  have hread (hp : s.program = .read :: rest) : step s = .next (beginRead s1) := by
    rw [step_atProgram hs hp, makeMove]
    exact onOpenSession_open (s := s1) hframed hclosed
  refine ⟨fun hp hup => ?_, fun hp hdown => ?_, fun bs hp => ?_⟩
  · rw [hread hp]
    refine ⟨fun hrx => ?_, fun rx hrx => ?_, fun rx hrx => ?_, fun bs rx hrx hle => ?_, fun bs rx hrx hlt => ?_⟩
    · have hanswer : transportRead s.cfg.readChunk s.net = (.wouldBlock, s.net) := by simp [transportRead, hup, hrx]
      rw [beginRead_wouldBlock (s := s1) hanswer, endRead_of_idle (by exact hidle)]
      rfl
    · have hanswer : transportRead s.cfg.readChunk s.net = (.wouldBlock, { s.net with rx := rx }) := by
        simp [transportRead, hup, hrx]
      rw [beginRead_wouldBlock (s := s1) hanswer, endRead_of_idle (by exact hidle)]
    · have hanswer : transportRead s.cfg.readChunk s.net = (.failure, { s.net with rx := rx }) := by
        simp [transportRead, hup, hrx]
      rw [beginRead_failure (s := s1) hanswer, ioFailure_of_idle (by exact hidle)]
    · have hanswer : transportRead s.cfg.readChunk s.net = (.bytes bs, { s.net with rx := rx }) := by
        simp [transportRead, hup, hrx, hle]
      rw [beginRead_bytes (s := s1) hanswer]
      rfl
    · have hanswer : transportRead s.cfg.readChunk s.net =
          (.bytes (bs.take s.cfg.readChunk), { s.net with rx := .bytes (bs.drop s.cfg.readChunk) :: rx }) := by
        simp [transportRead, hup, hrx, Nat.not_le.mpr hlt]
      rw [beginRead_bytes (s := s1) hanswer]
      rfl
  · have hnet : ({ s.net with down := true } : Transport) = s.net := by rw [← hdown]
    rw [hread hp, beginRead_failure (s := s1) (transportRead_down hdown _), ioFailure_of_idle (by exact hidle)]
    exact congrArg (fun n => Host.Outcome.next { s1 with net := n, ses := failed }) hnet
  · rw [step_atProgram hs hp, makeMove]
    exact onOpenSession_open (s := s1) hframed hclosed

/-! ### The HTTP collaborator (R226) -/

/-- The number a sequence of decimal digits stands for. -/
def decimalValue (digits : List Byte) : Nat := digits.foldl (fun n c => 10 * n + (c.toNat - 0x30)) 0

section
variable {n : Nat}

theorem digit_toNat (h : n < 10) : (BitVec.ofNat 8 (0x30 + n)).toNat = 0x30 + n := by
  rw [BitVec.toNat_ofNat]
  omega

theorem decimalValue_snoc (ds : List Byte) (c : Byte) :
    decimalValue (ds ++ [c]) = 10 * decimalValue ds + (c.toNat - 0x30) := by
  simp [decimalValue]

/-- With fuel for its digits, a number is written so that its value is read back. -/
theorem decimalValue_decimalGo {k : Nat} (h : n < k) : decimalValue (decimalGo k n) = n := by
  induction k generalizing n with
  | zero => omega
  | succ k ih =>
    unfold decimalGo
    split
    case isTrue hn => rw [← List.nil_append [_], decimalValue_snoc, digit_toNat hn]; simp [decimalValue]
    case isFalse hn =>
      rw [decimalValue_snoc, ih (by omega), digit_toNat (Nat.mod_lt n (by decide))]
      omega

theorem decimalGo_digits (k n : Nat) : ∀ c ∈ decimalGo k n, 0x30 ≤ c.toNat ∧ c.toNat ≤ 0x39 := by
  have hdigit {m : Nat} (hm : m < 10) : 0x30 ≤ (BitVec.ofNat 8 (0x30 + m)).toNat ∧
      (BitVec.ofNat 8 (0x30 + m)).toNat ≤ 0x39 := by rw [digit_toNat hm]; omega
  induction k generalizing n with
  | zero => simp [decimalGo]
  | succ k ih =>
    unfold decimalGo
    split
    case isTrue hn => simpa using hdigit hn
    case isFalse =>
      rw [List.forall_mem_append]
      exact ⟨ih _, by simpa using hdigit (Nat.mod_lt n (by decide))⟩

/-- No leading zero. -/
theorem decimalGo_head {k : Nat} (h : n < k) (hpos : 0 < n) :
    ∃ c ds, decimalGo k n = c :: ds ∧ c ≠ 0x30 := by
  induction k generalizing n with
  | zero => omega
  | succ k ih =>
    unfold decimalGo
    split
    case isTrue hn =>
      refine ⟨_, [], rfl, fun hzero => ?_⟩
      have hvalue := congrArg BitVec.toNat hzero
      rw [digit_toNat hn] at hvalue
      exact absurd hvalue (by simp; omega)
    case isFalse hn =>
      obtain ⟨c, ds, hgo, hc⟩ := ih (n := n / 10) (by omega) (by omega)
      exact ⟨c, ds ++ [BitVec.ofNat 8 (0x30 + n % 10)], by rw [hgo]; rfl, hc⟩

end

theorem header_other (b : HttpBuilder) {name : List Byte} (value : List Byte) (h : name ≠ contentLengthName) :
    b.header name value = { b with headers := b.headers ++ [(name, value)] } := if_neg h

/-- None of the handshake's three headers is Content-Length, so the builder takes them all. -/
theorem upgradeResponse_eq (version token : List Byte) : upgradeResponse version token =
    { version := version, reason := switchingText, code := 101, body := none
      headers := [(upgradeText, websocketText), (connectionText, upgradeText), (acceptHeaderName, token)] } := by
  rw [upgradeResponse, header_other _ _ (by decide), header_other _ _ (by decide), header_other _ _ (by decide)]
  rfl

/-! ### The handshake (R225) -/

section
variable {s : State}

theorem performHhAccept_faulted (hf : s.blk.fault = true) : performHhAccept s = withFaulted s := checked_faulted hf

section
variable {version key : List Byte} {ok : Bool} {t : State}

/-- The response is sent: framed mode is entered, and the call returns. -/
theorem handshakeWithKey_sent (haccept : performHhAccept { s with operand := key } = t)
    (h : ok = true ∧ t.net.down = false) :
    handshakeWithKey version key ok s =
      { t with blk := { t.blk with buf := bufferEnteringFramed t.blk }
               ses := { t.ses with
                 framed := true, closed := false, asm := Assembler.reset, ret := some .done
                 http := some (upgradeResponse version (responseOut t)) } } := by
  rw [handshakeWithKey, sendResponse_ok, haccept, h.1, h.2]
  rfl

/-- The response is not sent: the connection is dropped, and framed mode is not entered. -/
theorem handshakeWithKey_unsent (haccept : performHhAccept { s with operand := key } = t)
    (h : ok = false ∨ t.net.down = true) :
    handshakeWithKey version key ok s =
      { t with net := { t.net with down := true }
               ses := { t.ses with
                 reading := false, rem := [], msgs := [], ret := some (.error .ioError)
                 http := some (upgradeResponse version (responseOut t)) } } := by
  have hno : (ok && !t.net.down) = false := by rcases h with h | h <;> simp [h]
  rw [handshakeWithKey, sendResponse_ok, haccept, hno]
  rfl

end

theorem callHandshake_noKey {req : HttpRequest} (hframed : s.ses.framed = false)
    (hkey : getHeader keyHeaderName req = none) (ok : Bool) :
    callHandshake req ok s = .fault .missingWebSocketKey := by
  rw [callHandshake, if_neg (ne_true_of_eq_false hframed), hkey]

theorem callHandshake_key {req : HttpRequest} {key : List Byte} (hframed : s.ses.framed = false)
    (hkey : getHeader keyHeaderName req = some key) (ok : Bool) :
    callHandshake req ok s = .next (handshakeWithKey req.version key ok s) := by
  rw [callHandshake, if_neg (ne_true_of_eq_false hframed), hkey]
  rfl

end

/-- Settles O60: the key is hashed and the response sent; framed mode empties the buffer only of a block without fault;
and the digits of Content-Length are those of the body's length. -/
theorem handshakeEntersFramedMode : Obligations.HandshakeEntersFramedMode := by
  refine ⟨?_, fun b value => if_pos rfl, fun b name value h => header_other b value h, fun b body => ?_,
    fun b => rfl⟩
  · intro s rest req sendOk hs hp hframed http entered failed
    rw [step_atProgram hs hp, makeMove]
    refine ⟨fun hkey => callHandshake_noKey (by exact hframed) hkey _, fun key hkey hready hlen => ?_,
      fun key hkey hfault => ?_⟩ <;> rw [callHandshake_key (by exact hframed) hkey]
    · have haccept := performHhAccept_ready (s := { onward s with program := rest, operand := key }) hready hlen
      have hbuf : bufferEnteringFramed s.blk = [] := if_neg (ne_true_of_eq_false hready.1)
      refine ⟨fun hsend => ?_, fun hsend => ?_⟩
      · rw [handshakeWithKey_sent haccept (by exact hsend), upgradeResponse_eq, ← hbuf]
        rfl
      · rw [handshakeWithKey_unsent haccept (by exact hsend), upgradeResponse_eq]
        rfl
    · have haccept := performHhAccept_faulted (s := { onward s with program := rest, operand := key }) hfault
      refine ⟨fun hsend => ⟨bufferEnteringFramed s.blk, fun _ => if_pos hfault, ?_⟩, fun hsend => ?_⟩
      · rw [handshakeWithKey_sent haccept (by exact hsend), upgradeResponse_eq]
        rfl
      · rw [handshakeWithKey_unsent haccept (by exact hsend), upgradeResponse_eq]
        rfl
  · refine ⟨decimal body.length, rfl, decimalValue_decimalGo (Nat.lt_succ_self _), decimalGo_digits _ _,
      fun hhead => ?_⟩
    by_contra hne
    obtain ⟨c, ds, hgo, hc⟩ := decimalGo_head (Nat.lt_succ_self _) (List.length_pos_of_ne_nil hne)
    rw [decimal, hgo] at hhead
    exact hc (Option.some.inj hhead)

end Sys2Proof.Machine

/-! What a step can do to the block and to the session, said once; and the invariants that follow (10_state.md R22, R27,
R29; 47_host_consumer.md R215, R223; 60_exceptions.md R242; 70_reset_and_hazards.md R263). -/

namespace Sys2Proof.Machine

/-! ### A command of the block is made -/

/-- A legal command is performed, or an illegal word is presented (R74, R191). -/
def CommandMade (s t : State) : Prop := (∃ i, IsCommand i ∧ exec i s = .next t) ∨ t = illegalCommand s

section
variable {s t : State}

theorem CommandMade.onlyBlockChanges (h : CommandMade s t) : OnlyBlockChanges s t := by
  obtain ⟨i, hi, ht⟩ | rfl := h
  · exact exec_command_onlyBlockChanges hi ht
  · unfold illegalCommand
    split
    · exact refuseFaulted_onlyBlockChanges s
    · exact raiseFault_onlyBlockChanges _ s

theorem CommandMade.cfg (h : CommandMade s t) : t.cfg = s.cfg := by
  obtain ⟨r, hr⟩ := h.onlyBlockChanges
  exact (congrArg State.cfg hr :)

/-- R242: while a fault is pending no command changes the block. -/
theorem CommandMade.blk_of_faulted (h : CommandMade s t) (hf : s.blk.fault = true) : t.blk = s.blk := by
  obtain ⟨i, hi, ht⟩ | rfl := h
  · by_cases hread : i = .rdStatus ∧ s.operand = []
    · obtain ⟨rfl, hd⟩ := hread
      rw [exec_rdStatus_empty hd] at ht
      cases ht
      rfl
    · rw [faultedRefusesCommands s i hf hi hread] at ht
      cases ht
      rfl
  · rw [illegalCommand_pending hf]
    rfl

theorem CommandMade.effect (h : CommandMade s t) (hB : s.blk.fault = false → NoCompletePrefix s.blk.buf)
    (hc : Within s.blk.buf.length s.cfg.parserCapacity) : CommandEffect s t := by
  obtain ⟨i, hi, ht⟩ | rfl := h
  · obtain ⟨u, hu, heff⟩ := exec_command hi hB hc
    rw [ht] at hu
    cases hu
    exact heff
  · exact illegalCommand_effect s

theorem issue_commandMade {cw : BitVec 16} {data : List Byte} (h : issue cw data s = .next t) :
    CommandMade { s with operand := data } t := by
  unfold issue at h
  split at h
  case h_1 i hi => exact .inl ⟨i, toFrame_of_decodeWord hi, h⟩
  case h_2 =>
    cases h
    exact .inr rfl

end

/-! ### The effect of a step -/

/-- What a step can do to the block and the response, where `resets` says that it may be a reset. -/
inductive BlockEffect (cfg : Config) (b : Block) (r : Option Response) (resets : Prop) :
    Block → Option Response → Prop where
  | kept : BlockEffect cfg b r resets b r
  | reset (h : resets) : BlockEffect cfg b r resets Block.reset r
  | command {s t : State} (hcfg : s.cfg = cfg) (hblk : s.blk = b) (h : CommandMade s t) :
      BlockEffect cfg b r resets t.blk t.resp
  /-- The handshake's HH_ACCEPT, and framed mode entered (R225). -/
  | framed {s t : State} (hcfg : s.cfg = cfg) (hblk : s.blk = b) (h : CommandMade s t) :
      BlockEffect cfg b r resets { t.blk with buf := bufferEnteringFramed t.blk } t.resp

/-- The cycle is over, and its call has returned `result`. -/
def Session.ended (result : CallResult) (a : Session) : Session :=
  { a with reading := false, rem := [], msgs := [], ret := some result }

/-- The waiting frame is taken for dispatch. -/
def Session.dispatched (a : Session) : Session := { a with pending := none }

/-- What a step can do to the session, given the response after it. -/
inductive SessionEffect (a : Session) (r : Option Response) : Session → Prop where
  | kept : SessionEffect a r a
  /-- A frame that is ignored, or a PING answered (R206, R207). -/
  | taken : SessionEffect a r a.dispatched
  | pongFailed : SessionEffect a r (a.dispatched.ended (.error .ioError))
  /-- A data frame, with the message it completes, if any (R208, R214). -/
  | fragment {f : Frame} (ms : List Message) (hp : a.pending = some f) : SessionEffect a r
      { a.dispatched with asm := (appendFragment f.opcode f.fin f.payload a.asm).1, msgs := a.msgs ++ ms }
  /-- A data frame that ends the read with an error (R208). -/
  | broken {f : Frame} {e : HostError} (he : (appendFragment f.opcode f.fin f.payload a.asm).2 = .error e) :
      SessionEffect a r (Session.ended (.error e)
        { a.dispatched with asm := (appendFragment f.opcode f.fin f.payload a.asm).1, mustClose := true })
  /-- CLOSE received (R205). -/
  | closed (ms : List Message) : SessionEffect a r (Session.ended (.messages ms) { a.dispatched with closed := true })
  /-- One FP_APPEND of a read cycle (R201). -/
  | turned (hr : a.reading = true) : SessionEffect a r
      { a with rem := a.rem.drop (takenFrom r).1, pending := (takenFrom r).2 }
  /-- A read returns its messages, or a read or a send returns IoError (R201, R219). -/
  | returned {result : CallResult} (hp : a.pending = none) (hresult : result ≠ .error .unsupportedOpcode) :
      SessionEffect a r (a.ended result)
  /-- A read cycle starts (R201). -/
  | started (chunk : List Byte) (hp : a.pending = none) (hclosed : a.closed = false) (howed : a.mustClose = false) :
      SessionEffect a r { a with reading := true, rem := chunk, msgs := [] }
  /-- A send returns (R220). -/
  | sent : SessionEffect a r { a with ret := some .done }
  /-- A close is made, as it was owed or as the program's move (R222, R224). -/
  | closeSent (hr : a.mustClose = true ∨ a.reading = false) : SessionEffect a r
      { a with closed := true, mustClose := false, ret := some .done }
  | closeFailed (hp : a.pending = none) : SessionEffect a r (Session.ended (.error .ioError)
      { a with closed := true, mustClose := false })
  /-- The handshake's response is sent (R225). -/
  | entered (http : Option HttpResponse) (hf : a.framed = false) : SessionEffect a r
      { a with framed := true, closed := false, asm := Assembler.reset, ret := some .done, http := http }
  | enterFailed (http : Option HttpResponse) (hp : a.pending = none) : SessionEffect a r
      (Session.ended (.error .ioError) { a with http := http })

/-- What a step can do: the parameters stay, and the block and the session change as said above. -/
def StepEffect (resets : Prop) (s t : State) : Prop :=
  t.cfg = s.cfg ∧ BlockEffect s.cfg s.blk s.resp resets t.blk t.resp ∧ SessionEffect s.ses t.resp t.ses

section
variable {resets : Prop} {s t : State}

theorem StepEffect.mono {resets' : Prop} (h : StepEffect resets s t) (himp : resets → resets') :
    StepEffect resets' s t := by
  obtain ⟨hcfg, hblock, hses⟩ := h
  refine ⟨hcfg, ?_, hses⟩
  generalize t.blk = b' at hblock ⊢
  generalize t.resp = r' at hblock ⊢
  cases hblock with
  | kept => exact .kept
  | reset h => exact .reset (himp h)
  | command hcfg hblk h => exact .command hcfg hblk h
  | framed hcfg hblk h => exact .framed hcfg hblk h

/-- A step that touches nothing but the session. -/
theorem stepEffect_of_session {ses : Session} (h : SessionEffect s.ses s.resp ses) :
    StepEffect resets s { s with ses := ses } :=
  ⟨rfl, .kept, h⟩

theorem CommandMade.blockEffect {s0 : State} (h : CommandMade s0 t) (hcfg : s0.cfg = s.cfg) (hblk : s0.blk = s.blk) :
    BlockEffect s.cfg s.blk s.resp resets t.blk t.resp := .command hcfg hblk h

/-- A command the host issues with nothing else to do for the session. -/
theorem CommandMade.stepEffect {s0 : State} (h : CommandMade s0 t) (hcfg : s0.cfg = s.cfg) (hblk : s0.blk = s.blk)
    (hses : s0.ses = s.ses) : StepEffect resets s t := by
  refine ⟨h.cfg.trans hcfg, .command hcfg hblk h, ?_⟩
  rw [h.onlyBlockChanges.ses, hses]
  exact .kept

/-! ### The effect of each move -/

/-- A send is FE_FRAME on the block, and leaves the session to its caller (R220). -/
theorem sendFrame_effect (op : Opcode) (p : List Byte) (s : State) :
    (sendFrame op p s).1.cfg = s.cfg ∧
      BlockEffect s.cfg s.blk s.resp resets (sendFrame op p s).1.blk (sendFrame op p s).1.resp := by
  have hmade : CommandMade { s with operand := p } (performFeFrame op { s with operand := p }) :=
    .inl ⟨.feFrame op, rfl, rfl⟩
  exact ⟨hmade.cfg, (hmade.blockEffect rfl rfl :)⟩

theorem ioFailure_ses (s : State) : (ioFailure s).ses = s.ses.ended (.error .ioError) := rfl

/-- The two ends of a send as a call: it returns, or it returns IoError. -/
theorem callSend_effect (op : Opcode) (p : List Byte) (s : State) :
    (callSend op p s).cfg = s.cfg ∧
      BlockEffect s.cfg s.blk s.resp resets (callSend op p s).blk (callSend op p s).resp ∧
      ((callSend op p s).ses = { s.ses with ret := some .done } ∨
        (callSend op p s).ses = s.ses.ended (.error .ioError)) := by
  obtain ⟨hcfg, hblock⟩ := sendFrame_effect (resets := resets) op p s
  have hses := sendFrame_ses op p s
  rw [callSend]
  split
  · exact ⟨hcfg, hblock, .inl (by rw [returnDone, hses])⟩
  · exact ⟨hcfg, hblock, .inr (by rw [ioFailure_ses, hses])⟩

theorem dispatchPing_effect (p : List Byte) (s : State) :
    StepEffect resets s (dispatchPing p { s with ses := s.ses.dispatched }) := by
  obtain ⟨hcfg, hblock⟩ := sendFrame_effect (resets := resets) 0xA p { s with ses := s.ses.dispatched }
  have hses := sendFrame_ses 0xA p { s with ses := s.ses.dispatched }
  rw [dispatchPing]
  split
  · exact ⟨hcfg, hblock, by rw [hses]; exact .taken⟩
  · exact ⟨hcfg, hblock, by rw [ioFailure_ses, hses]; exact .pongFailed⟩

/-- The dispatch of the waiting frame. -/
theorem dispatch_effect {f : Frame} (hp : s.ses.pending = some f)
    (h : exec (instrOfFrame f) { s with ses := s.ses.dispatched } = .next t) : StepEffect resets s t := by
  have hcases := exec_instrOfFrame_cases f { s with ses := s.ses.dispatched }
  obtain ⟨-, e⟩ | ⟨-, e⟩ | ⟨-, e⟩ | ⟨-, e⟩ := hcases <;> (rw [e] at h; cases h)
  · obtain e | ⟨m, e⟩ | ⟨err, herr, e⟩ :=
      dispatchData_cases f.opcode f.fin f.payload { s with ses := s.ses.dispatched } <;> rw [e]
    · have hnone : SessionEffect s.ses s.resp _ := .fragment [] hp
      rw [List.append_nil] at hnone
      exact stepEffect_of_session hnone
    · exact stepEffect_of_session (.fragment [m] hp)
    · exact stepEffect_of_session (.broken herr)
  · exact stepEffect_of_session (.closed _)
  · exact dispatchPing_effect f.payload s
  · exact stepEffect_of_session .taken

theorem callHandshake_effect {req : HttpRequest} {ok : Bool} (hp : s.ses.pending = none)
    (h : callHandshake req ok s = .next t) : StepEffect resets s t := by
  unfold callHandshake at h
  split at h
  case isTrue => cases h
  case isFalse hframed =>
  split at h
  case h_1 => cases h
  case h_2 key hkey =>
  cases h
  obtain ⟨u, hu⟩ : ∃ u, performHhAccept { s with operand := key } = u := ⟨_, rfl⟩
  have hmade : CommandMade { s with operand := key } u := .inl ⟨.hhAccept, rfl, congrArg _ hu⟩
  have hses : u.ses = s.ses := hmade.onlyBlockChanges.ses
  by_cases hsend : ok = true ∧ u.net.down = false
  · rw [handshakeWithKey_sent hu hsend, hses]
    exact ⟨hmade.cfg, .framed (s := { s with operand := key }) (t := u) rfl rfl hmade,
      .entered _ (Bool.eq_false_of_not_eq_true hframed)⟩
  · rw [handshakeWithKey_unsent hu (by simpa [imp_iff_not_or] using hsend), hses]
    exact ⟨hmade.cfg, (hmade.blockEffect rfl rfl :),
      .enterFailed (some (upgradeResponse req.version (responseOut u))) hp⟩

theorem beginRead_effect (hp : s.ses.pending = none) (hclosed : s.ses.closed = false)
    (howed : s.ses.mustClose = false) : StepEffect resets s (beginRead s) := by
  rcases hanswer : transportRead s.cfg.readChunk s.net with ⟨_ | _ | bs, n⟩
  · rw [beginRead_wouldBlock hanswer]
    exact ⟨rfl, .kept, .returned hp (by simp)⟩
  · rw [beginRead_failure hanswer]
    exact ⟨rfl, .kept, .returned hp (by simp)⟩
  · rw [beginRead_bytes hanswer]
    exact ⟨rfl, .kept, .started bs hp hclosed howed⟩

theorem onOpenSession_eq_next {go : State → Host.Outcome State Fault Refusal} (h : onOpenSession s go = .next t) :
    s.ses.closed = false ∧ go s = .next t := by
  unfold onOpenSession at h
  split at h
  · split at h
    · cases h
    · exact ⟨Bool.eq_false_of_not_eq_true ‹_›, h⟩
  · cases h

theorem callSend_stepEffect (op : Opcode) (p : List Byte) (hp : s.ses.pending = none) :
    StepEffect resets s (callSend op p s) := by
  obtain ⟨hcfg, hblock, hses | hses⟩ := callSend_effect (resets := resets) op p s
  · exact ⟨hcfg, hblock, by rw [hses]; exact .sent⟩
  · exact ⟨hcfg, hblock, by rw [hses]; exact .returned hp (by simp)⟩

/-- `close`, whether or not it was owed. -/
theorem callClose_effect (code : Option (BitVec 16)) (hp : s.ses.pending = none)
    (hr : s.ses.mustClose = true ∨ s.ses.reading = false) :
    StepEffect resets s (callClose code { s with ses := { s.ses with mustClose := false } }) := by
  obtain ⟨hcfg, hblock, hses | hses⟩ := callSend_effect (resets := resets) 0x8 (closePayload code)
    { s with ses := { s.ses with closed := true, mustClose := false } }
  · exact ⟨hcfg, hblock, by rw [callClose, hses]; exact .closeSent hr⟩
  · exact ⟨hcfg, hblock, by rw [callClose, hses]; exact .closeFailed hp⟩

/-- The next move of the program, made outside a read cycle with no frame waiting and no close owed. -/
theorem makeMove_effect {m : Move} (hp : s.ses.pending = none) (howed : s.ses.mustClose = false)
    (hr : s.ses.reading = false) (h : makeMove m s = .next t) : StepEffect (m = .reset) s t := by
  unfold makeMove at h
  cases m with
  | command cw data => exact (issue_commandMade h).stepEffect rfl rfl rfl
  | reset =>
    cases h
    exact ⟨rfl, .reset rfl, .kept⟩
  | read =>
    obtain ⟨hclosed, h⟩ := onOpenSession_eq_next h
    cases h
    exact beginRead_effect hp hclosed howed
  | feed bs =>
    obtain ⟨hclosed, h⟩ := onOpenSession_eq_next h
    cases h
    exact stepEffect_of_session (.started bs hp hclosed howed)
  | send op payload =>
    obtain ⟨-, h⟩ := onOpenSession_eq_next h
    cases h
    exact callSend_stepEffect op payload hp
  | sendText utf8 =>
    obtain ⟨-, h⟩ := onOpenSession_eq_next h
    split at h
    · cases h
      exact callSend_stepEffect 0x1 utf8 hp
    · cases h
  | sendBytes bytes =>
    obtain ⟨-, h⟩ := onOpenSession_eq_next h
    cases h
    exact callSend_stepEffect 0x2 bytes hp
  | close code =>
    obtain ⟨-, h⟩ := onOpenSession_eq_next h
    cases h
    have hsame : ({ s with ses := { s.ses with mustClose := false } } : State) = s := by rw [← howed]
    have hclose := callClose_effect (resets := Move.close code = .reset) code hp (.inr hr)
    rwa [hsame] at hclose
  | handshake req ok => exact callHandshake_effect hp h

theorem cycleTurn_effect (hr : s.ses.reading = true) (h : cycleTurn s = .next t) : StepEffect resets s t := by
  obtain ⟨u, hu⟩ := exec_answers_next .fpAppend { s with operand := s.ses.rem }
  have hmade : CommandMade { s with operand := s.ses.rem } u := .inl ⟨.fpAppend, rfl, hu⟩
  have hses : u.ses = s.ses := hmade.onlyBlockChanges.ses
  rw [cycleTurn_of_exec hu] at h
  cases h
  rw [absorb, hses]
  exact ⟨hmade.cfg, (hmade.blockEffect rfl rfl :), .turned hr⟩

theorem advance_effect (h : advance s = .next t) :
    StepEffect (s.program.head? = some .reset) s t := by
  cases hp : s.ses.pending with
  | some f =>
    rw [advance_pending hp] at h
    exact dispatch_effect hp h
  | none =>
    cases hm : s.ses.mustClose with
    | true =>
      rw [advance_owed hp hm] at h
      cases h
      exact callClose_effect _ hp (.inl hm)
    | false =>
      cases hr : s.ses.reading with
      | true =>
        by_cases hrem : s.ses.rem = []
        · rw [advance_return hp hm hr hrem] at h
          cases h
          exact stepEffect_of_session (.returned hp (by simp))
        · rw [advance_turn hp hm hr hrem] at h
          exact cycleTurn_effect hr h
      | false =>
        cases hprog : s.program with
        | nil =>
          rw [advance_idle hp hm hr hprog] at h
          cases h
          exact stepEffect_of_session .kept
        | cons m rest =>
          rw [advance_move hp hm hr hprog] at h
          exact (makeMove_effect (s := { s with program := rest }) hp hm hr h).mono fun e => congrArg some e

/-- Everything a step can do. -/
theorem step_effect (h : step s = .next t) :
    StepEffect (s.between.head? = some .reset ∨ s.program.head? = some .reset) s t := by
  obtain ⟨hb, e⟩ | ⟨-, e⟩ | ⟨-, e⟩ := step_cases s <;> rw [e] at h
  · cases h
    exact ⟨rfl, .reset (.inl hb), .kept⟩
  · exact CommandMade.stepEffect (.inl ⟨.rdStatus, rfl, h⟩) rfl rfl rfl
  · exact (advance_effect (s := onward s) h).mono .inr

end

/-! ### The parameters and the pending fault (R242, R263) -/

/-- Settles O40: no part of a step touches the parameters. -/
theorem parametersAreFixed : Obligations.ParametersAreFixed := fun _ _ h => (step_effect h).1

/-- A pending fault stays as it is until reset. -/
theorem BlockEffect.faulted {cfg : Config} {b b' : Block} {r r' : Option Response} {resets : Prop}
    (h : BlockEffect cfg b r resets b' r') (hf : b.fault = true) : b' = b ∨ (b' = Block.reset ∧ resets) := by
  cases h with
  | kept => exact .inl rfl
  | reset h => exact .inr ⟨rfl, h⟩
  | command _ hblk h =>
    subst hblk
    exact .inl (h.blk_of_faulted hf)
  | framed _ hblk h =>
    subst hblk
    rw [h.blk_of_faulted hf, bufferEnteringFramed, if_pos hf]
    exact .inl rfl

/-- Settles O36: the block stays the same, also as a handshake enters framed mode; or the step is a reset. -/
theorem faultKeepsFirstCause : Obligations.FaultKeepsFirstCause := by
  intro s t h hf
  obtain ⟨-, hblock, -⟩ := step_effect h
  obtain hkept | hreset := hblock.faulted hf
  · rw [hkept]
    exact .inl ⟨hf, rfl, fun _ => rfl⟩
  · exact .inr hreset

/-! ### The block's part of the invariant (R22, R29, R240) -/

/-- A response that failed carries nothing (R72). -/
theorem response_sound_of_failed {code : BitVec 8} (h : code = 0x01 ∨ code = 0x02 ∨ code = 0x03 ∨ code = 0x80) :
    Response.Sound ⟨code, 0, none, []⟩ :=
  ⟨.inr h, fun _ => ⟨rfl, rfl, rfl⟩, fun _ hf => (nomatch hf)⟩

theorem response_sound_of_ok {k : Nat} {fo : Option Frame} {out : List Byte} (h : ∀ f, fo = some f → f.wf = true) :
    Response.Sound ⟨0x00, k, fo, out⟩ :=
  ⟨.inl rfl, fun hne => absurd rfl hne, h⟩

/-- The block and the response are as the invariant says. -/
def BlockSound (cfg : Config) (b : Block) (r : Option Response) : Prop :=
  b.Sound cfg.parserCapacity ∧ ∀ x, r = some x → x.Sound

theorem bufferAfterFault_within {s : State} (c : Cause) (h : Within s.blk.buf.length s.cfg.parserCapacity) :
    Within (bufferAfterFault c s).length s.cfg.parserCapacity := by
  cases c with
  | illegalCommand | operandLength => exact h
  | capacity => exact capacityBuffer_within s

theorem Cause.code_known (c : Cause) : c.code = 0x01 ∨ c.code = 0x02 ∨ c.code = 0x03 := by
  cases c <;> decide

theorem CommandEffect.sound {s t : State} (h : CommandEffect s t) (hs : s.blk.Sound s.cfg.parserCapacity) :
    BlockSound s.cfg t.blk t.resp := by
  have hresp {x : Response} (hx : x.Sound) : ∀ y, some x = some y → y.Sound := fun y hy => Option.some.inj hy ▸ hx
  cases h with
  | refused => exact ⟨hs, hresp (response_sound_of_failed (by decide))⟩
  | faulted c hf =>
    have hcode := c.code_known
    refine ⟨⟨fun h => (nomatch h), bufferAfterFault_within c hs.bounded, fun h => (nomatch h), fun _ => hcode⟩,
      hresp (response_sound_of_failed ?_)⟩
    exact hcode.imp_right (Or.imp_right .inl)
  | taken B k fo hf hB hc hwf =>
    exact ⟨⟨fun _ => hB, hc, hs.causeClear, hs.causeKnown⟩, hresp (response_sound_of_ok hwf)⟩
  | output out d => exact ⟨hs, hresp (response_sound_of_ok fun _ h => (nomatch h))⟩

/-- Entering framed mode keeps a sound block: its buffer is then empty, or stays as a fault left it. -/
theorem Block.Sound.enteringFramed {cap : Option Nat} {b : Block} (h : b.Sound cap) :
    Block.Sound cap { b with buf := bufferEnteringFramed b } := by
  obtain ⟨-, e⟩ | ⟨-, e⟩ := bufferEnteringFramed_cases b <;> rw [e]
  · exact h
  · exact ⟨fun _ => noCompletePrefix_nil, within_zero cap, h.causeClear, h.causeKnown⟩

theorem block_reset_sound (cap : Option Nat) : Block.reset.Sound cap :=
  ⟨fun _ => noCompletePrefix_nil, within_zero cap, fun _ => rfl, fun h => (nomatch h)⟩

theorem BlockEffect.sound {cfg : Config} {b b' : Block} {r r' : Option Response} {resets : Prop}
    (h : BlockEffect cfg b r resets b' r') (hs : BlockSound cfg b r) : BlockSound cfg b' r' := by
  obtain ⟨hblock, hresp⟩ := hs
  cases h with
  | kept => exact ⟨hblock, hresp⟩
  | reset => exact ⟨block_reset_sound _, hresp⟩
  | command hcfg hblk h =>
    subst hcfg hblk
    exact (h.effect hblock.prefixes hblock.bounded).sound hblock
  | framed hcfg hblk h =>
    subst hcfg hblk
    obtain ⟨hb, hr⟩ := (h.effect hblock.prefixes hblock.bounded).sound hblock
    exact ⟨hb.enteringFramed, hr⟩

/-! ### The session's part of the invariant (R201, R209, R215, R223) -/

/-- The session is as the invariant says. -/
structure Session.Sound (a : Session) : Prop where
  assembler : a.asm.Sound
  pendingWf : ∀ f, a.pending = some f → f.wf = true ∧ a.reading = true
  closedIdle : a.closed = true → a.reading = false
  owedIdle : a.mustClose = true → a.reading = false
  idleEmpty : a.reading = false → a.msgs = []

theorem sound_iff {s : State} : s.Sound ↔ BlockSound s.cfg s.blk s.resp ∧ s.ses.Sound := by
  constructor
  · rintro ⟨hblock, hresp, hasm, hpending, hclosed, howed, hidle⟩
    exact ⟨⟨hblock, hresp⟩, hasm, hpending, hclosed, howed, hidle⟩
  · rintro ⟨⟨hblock, hresp⟩, hasm, hpending, hclosed, howed, hidle⟩
    exact ⟨hblock, hresp, hasm, hpending, hclosed, howed, hidle⟩

theorem assembler_reset_sound : Assembler.reset.Sound := ⟨.inl rfl, fun _ => rfl⟩

theorem forall_of_eq_none {o : Option Frame} {P : Frame → Prop} (h : o = none) : ∀ f, o = some f → P f := by
  subst h
  exact fun _ hf => (nomatch hf)

/-- A session whose cycle is over, and in which no frame waits. -/
theorem Session.Sound.ended {a : Session} (hasm : a.asm.Sound) (hp : a.pending = none) (result : CallResult) :
    (a.ended result).Sound :=
  ⟨hasm, forall_of_eq_none hp, fun _ => rfl, fun _ => rfl, fun _ => rfl⟩

theorem SessionEffect.sound {a b : Session} {r : Option Response} (h : SessionEffect a r b) (ha : a.Sound)
    (hresp : ∀ x, r = some x → x.Sound) : b.Sound := by
  obtain ⟨hasm, hpending, hclosed, howed, hidle⟩ := ha
  cases h with
  | kept => exact ⟨hasm, hpending, hclosed, howed, hidle⟩
  | taken => exact ⟨hasm, forall_of_eq_none rfl, hclosed, howed, hidle⟩
  | pongFailed => exact .ended (by exact hasm) rfl _
  | @fragment f ms hp =>
    have hreading := (hpending f hp).2
    exact ⟨appendFragment_sound hasm, forall_of_eq_none rfl, hclosed, howed,
      fun h => absurd hreading (ne_true_of_eq_false h)⟩
  | broken => exact .ended (appendFragment_sound hasm) rfl _
  | closed ms => exact .ended (by exact hasm) rfl _
  | turned hr =>
    refine ⟨hasm, fun f hf => ?_, hclosed, howed, hidle⟩
    cases r with
    | none => cases hf
    | some x => exact ⟨(hresp x rfl).frameWf f hf, hr⟩
  | returned hp => exact .ended hasm hp _
  | started chunk hp hopen hfree =>
    exact ⟨hasm, forall_of_eq_none hp, fun h => absurd h (ne_true_of_eq_false hopen),
      fun h => absurd h (ne_true_of_eq_false hfree), fun h => (nomatch h)⟩
  | sent => exact ⟨hasm, hpending, hclosed, howed, hidle⟩
  | closeSent hr =>
    have hreading : a.reading = false := hr.elim howed id
    exact ⟨hasm, hpending, fun _ => hreading, fun h => (nomatch h), hidle⟩
  | closeFailed hp => exact .ended (by exact hasm) (by exact hp) _
  | entered => exact ⟨assembler_reset_sound, hpending, fun h => (nomatch h), howed, hidle⟩
  | enterFailed http hp => exact .ended (by exact hasm) (by exact hp) _

/-- Settles O38: the block's part rests on what a command can do, the session's on what a move can do. -/
theorem stepKeepsSound : Obligations.StepKeepsSound := by
  intro s t hs h
  obtain ⟨hblock, hses⟩ := sound_iff.mp hs
  obtain ⟨hcfg, hblockEffect, hsesEffect⟩ := step_effect h
  have hblock' := hblockEffect.sound hblock
  rw [sound_iff, hcfg]
  exact ⟨hblock', hsesEffect.sound hses hblock'.2⟩

/-- Settles O39: an empty block without a fault, and a session in which nothing is in progress. -/
theorem resetIsSound : Obligations.ResetIsSound :=
  sound_iff.mpr ⟨⟨block_reset_sound _, fun _ h => (nomatch h)⟩,
    assembler_reset_sound, fun _ h => (nomatch h), fun _ => rfl, fun _ => rfl, fun _ => rfl⟩

/-- Settles O55: only the handshake opens a session, and only one not yet in framed mode. -/
theorem noReopening : Obligations.NoReopening := by
  intro s t h hframed hclosed
  obtain ⟨-, -, hses⟩ := step_effect h
  generalize t.ses = b at hses ⊢
  cases hses with
  | entered http hf => rw [hframed] at hf; cases hf
  | kept | taken | pongFailed | fragment | broken | turned | returned | started | sent | enterFailed =>
    exact ⟨hframed, hclosed⟩
  | closed | closeSent | closeFailed => exact ⟨hframed, rfl⟩

/-- R215: a sound reassembler remembers TEXT or BINARY, so its messages are never of another kind. -/
theorem appendFragment_supported {a : Assembler} (ha : a.Sound) (op : Opcode) (fin : Bool) (p : List Byte) :
    (appendFragment op fin p a).2 ≠ .error .unsupportedOpcode := by
  have hfinish (bytes : List Byte) {o : Opcode} (ho : o = 0x1 ∨ o = 0x2) :
      finishMessage (some o) bytes ≠ .error .unsupportedOpcode := by
    rcases ho with rfl | rfl
    · unfold finishMessage
      cases utf8Valid bytes <;> simp
    · simp [finishMessage]
  unfold appendFragment
  split
  case isFalse => simp
  case isTrue haccepted =>
  split
  case isFalse => simp
  case isTrue =>
  rcases ha.startKnown with h | h | h <;> rw [h] at haccepted ⊢
  · exact hfinish _ (by simpa [fragmentAccepted] using haccepted)
  · exact hfinish _ (.inl rfl)
  · exact hfinish _ (.inr rfl)

/-- Settles O52: the one move that could return the error is a data frame's, and its reassembler is sound. -/
theorem unsupportedOpcodeNeverRaised : Obligations.UnsupportedOpcodeNeverRaised := by
  intro s t hs h hret
  obtain ⟨-, -, hses⟩ := step_effect h
  generalize t.ses = b at hses hret
  cases hses with
  | kept | taken | fragment | turned | started => exact hret
  | broken he =>
    cases hret
    exact absurd he (appendFragment_supported hs.assembler _ _ _)
  | returned hp hresult => exact absurd (Option.some.inj hret) hresult
  | pongFailed | closed | sent | closeSent | closeFailed | entered | enterFailed => cases hret

end Sys2Proof.Machine
